-- ==== Sys2Proof/Word.lean ====
section
/-! DEFINITION. The word types of the DW9 and their plainest arithmetic (R2, R3). -/

namespace Sys2Proof

/-- A 64-bit register, address or counter. -/
abbrev W64 := BitVec 64
/-- A lane, a shape word, an f32 pattern. -/
abbrev W32 := BitVec 32
/-- A byte of pool or HBM. -/
abbrev Byte := BitVec 8

/-- Field [hi:lo] of a natural number read as bits (R2). -/
def field (hi lo n : Nat) : Nat := (n >>> lo) % 2 ^ (hi + 1 - lo)

/-- Bit i of a natural number. -/
def bitOf (i n : Nat) : Bool := (n >>> i) % 2 == 1

/-- `n` read as a signed number of `w` bits. -/
def signedOf (w n : Nat) : Int := if n % 2 ^ w < 2 ^ (w - 1) then (n % 2 ^ w : Nat) else ((n % 2 ^ w : Nat) : Int) - 2 ^ w

/-- An exact integer narrowed to `w` bits, as a natural number. -/
def wrapNat (w : Nat) (x : Int) : Nat := (x % (2 ^ w : Nat)).toNat

/-- Division rounding up. -/
def ceilDiv (a b : Nat) : Nat := (a + b - 1) / b

end Sys2Proof
end

