-- ==== Sys2Proof/Config.lean ====
section
/-! DEFINITION. What an implementation fixes, and the values the manual leaves open. Each opaque constant has no body:
no proof can see a value of it, so a claim about one holds whatever it is. -/

namespace Sys2Proof.Config

/-- Extra cc by which the local completion of the k-th accepted engine operation follows its promise (R149: lateness from
contention, TLB misses and relay is met as a late token). [DESIGN CHOICE: log 10] -/
opaque late : Nat → Nat

/-- cc that the k-th message of the fabric is under way (R396: the instants of remote effects are left open). [DESIGN CHOICE: log 11] -/
opaque transit : Nat → Nat

/-- cc the near-memory unit, the relay engine or the sweeper takes for its k-th unit of work (R326: no duration is fixed).
[DESIGN CHOICE: log 66] -/
opaque work : Nat → Nat

/-- SHA-512 of a string of bytes (R41, R385, R386 name the digest; the manual gives no value of it). [PRESUMED: log 13] -/
opaque sha512 : List Byte → BitVec 512

/-- Whether a signature over a digest verifies with a key (R41, R43: RSA-4096). [PRESUMED: log 13] -/
opaque rsaVerify : BitVec 4096 → BitVec 4096 → BitVec 512 → Bool

/-- The container key of a KID in the key store: the vendor's test keys at 0, the owner's of the k-th provisioning at k + 1 (R43, R382); none for an unknown
KID. [PRESUMED: log 13] -/
opaque containerKey : Nat → BitVec 64 → Option (BitVec 4096)

/-- The NODEIDs of the other modules that the links find when they have trained for the k-th time (R258, R381).
[DESIGN CHOICE: log 147] -/
opaque domain : Nat → List Nat

/-- Whether a bay of another module has room for a footprint of a launch at a time, and whether the kernel's cores there have halted
(R24, R367): by launch, bay of the domain and MCYC. [DESIGN CHOICE: log 147] -/
opaque farRoom : Nat → Nat → Nat → Bool

/-- See `farRoom`. -/
opaque farHalted : Nat → Nat → Bool

/-- What the cores of a kernel on other modules add to the i-th count of its completion record (R391). [DESIGN CHOICE: log 147] -/
opaque farCount : Nat → Nat → Nat

/-- RSA-4096 over SHA-512 with the identity key that the k-th provisioning installed (R382, R386). -/
opaque sign : Nat → BitVec 512 → BitVec 4096

/-- The AES-256-XTS key pair generated for the k-th assignment of a key slot (R384). -/
opaque freshKey : Nat → BitVec 512

/-- The AES-GCM key of the links generated for the k-th assignment of a key slot (R384). -/
opaque freshLinkKey : Nat → BitVec 256

/-- The module key generated at the k-th boot, under which protected HBM is encrypted (R384). -/
opaque moduleKey : Nat → BitVec 512

/-- The k-th reading of the n-th sensor: power, flow, and the temperatures of the dies (R392). [DESIGN CHOICE: log 151] -/
opaque sensor : Nat → Nat → Nat

/-- A byte of an element that a stripe edge cuts in two, as an accumulate leaves it: by address and k-th such byte (R181, R253).
[DESIGN CHOICE: log 152] -/
opaque splitByte : Nat → Nat → Byte

/-- What a byte of HBM reads as once the key it was encrypted under is gone (R383): the byte at an address after the k-th such loss.
[DESIGN CHOICE: log 72] -/
opaque lostByte : Nat → Nat → Byte

/-- Where a bay's protected HBM has room for the forwarding table of a new region: by context, region and creation; none where the area
cannot be had (R320, R362). [DESIGN CHOICE: log 141] -/
opaque tableArea : Nat → Nat → Nat → Option Nat

/-- The k-th open choice between two permitted behaviours: an old or a new value of STEP (R309), a partial value written at a spill or
not (R288). [DESIGN CHOICE: log 36] -/
opaque choice : Nat → Bool

/-- The k-th open choice among several: which of the pieces of an access is applied next (R182). [DESIGN CHOICE: log 134] -/
opaque pick : Nat → Nat

end Sys2Proof.Config
end

