-- ==== Sys2Proof/Syntax.lean ====
section
/-! DEFINITION. The steps of the DW9: one constructor of `Instr` per row of spec/opcode_table.json. The instructions carry
the fields of their slot under the spec's own names (R48 to R52); the events carry what they act on. -/

namespace Sys2Proof

/-- The slots of a bundle, numbered as TRAPSLOT numbers them (R17, R44). -/
inductive Slot where
  | header | s | va | vb | m | c0 | c1 | k
  deriving DecidableEq, Repr

/-- The two vector slots (R44). -/
inductive VUnit where
  | va | vb
  deriving DecidableEq, Repr

/-- The two copy engines (R11, R44). -/
inductive CUnit where
  | c0 | c1
  deriving DecidableEq, Repr

/-- The R form of the S slot (R48). -/
structure RForm where
  sd : BitVec 6
  sa : BitVec 6
  sb : BitVec 6
  pg : BitVec 4
  fn : BitVec 4
  deriving DecidableEq, Repr

/-- The I form of the S slot (R48). -/
structure IForm where
  sd : BitVec 6
  sa : BitVec 6
  pg : BitVec 4
  imm : BitVec 32
  deriving DecidableEq, Repr

/-- The B form of the S slot (R48). -/
structure BForm where
  pg : BitVec 4
  ps : Bool
  tgt : BitVec 43
  deriving DecidableEq, Repr

/-- A V slot (R49), with the slot it stands in. -/
structure VForm where
  unit : VUnit
  cm : BitVec 8
  vd : BitVec 14
  va : BitVec 14
  vb : BitVec 14
  qg : BitVec 3
  ty : BitVec 3
  deriving DecidableEq, Repr

/-- The M slot (R50). -/
structure MForm where
  zd : BitVec 8
  aa : BitVec 4
  ab : BitVec 4
  tO : BitVec 6
  t1 : BitVec 6
  t2 : BitVec 6
  t3 : BitVec 6
  deriving DecidableEq, Repr

/-- A C slot (R51), with the engine it stands in. -/
structure CForm where
  unit : CUnit
  sx : BitVec 6
  sy : BitVec 6
  ap : BitVec 4
  tO : BitVec 6
  t1 : BitVec 6
  t2 : BitVec 6
  t3 : BitVec 6
  deriving DecidableEq, Repr

/-- The K slot (R52). -/
structure KForm where
  cm : BitVec 8
  vr : BitVec 14
  ch : BitVec 8
  qg : BitVec 4
  deriving DecidableEq, Repr

/-- Why a bundle is an illegal encoding: REASON, FIELD and TRAPSLOT of R70. -/
structure Reject where
  reason : Nat
  field : Nat
  slot : Slot
  deriving DecidableEq, Repr

/-- A window at one member bay of this module: bay, context, window id (R243). -/
structure WinKey where
  bay : Nat
  ctx : Nat
  win : Nat
  deriving DecidableEq, Repr

/-- A yard region: context and region number (R319). -/
structure RegKey where
  ctx : Nat
  rid : Nat
  deriving DecidableEq, Repr

/-- Where a remote operation came from: module, bay ordinal in its kernel, member rank, core, operation (R241, R244, R245). -/
structure Origin where
  node : Nat
  ord : Nat
  rank : Nat
  core : Nat
  op : Nat
  deriving DecidableEq, Repr

/-- A reduce, put or get transfer of a collective, beyond what an access carries (R196, R197, R286). `seq` says which of the
collectives that its sender and its receiver both take part in it belongs to. -/
structure CollPart where
  op : Nat
  rop : Nat
  exp : Int
  shard : Bool
  final : Bool
  fixed : List (Option (BitVec 128))
  ovf : Nat
  cen : Bool
  seq : Nat
  deriving DecidableEq, Repr

/-- An increment or take on its way to a counter unit (R186, R294, R370). -/
structure CtrMsg where
  kernel : Nat
  bay : Nat
  id : Nat
  inc : W64
  core : Nat
  op : Nat
  quiet : Bool
  after : List Nat
  deriving DecidableEq, Repr

/-- A remote access on its way to an ingress port or crossbar checker (R180, R241, R247). Once it is under way there, `rest` lists its
pieces (first byte, bytes) not applied yet, `bad` the status met so far, and what a get has read stands in `data` (R182); `pages` are
the faults that it waits for (R246). `ctr` is the increment of a CNTINC that was turned away and waits in the order of its route (R297). -/
structure Access where
  key : WinKey
  node : Nat
  org : Origin
  opc : Nat
  fi : Nat
  opened : Bool
  off : Nat
  len : Nat
  aop : Nat
  dty : Nat
  rce : Bool
  rcnt : Nat
  clr : Nat
  cmpv : W64
  step : W64
  data : List Byte
  tagOk : Bool
  agent : Bool
  after : List Nat
  part : Nat
  coll : Option CollPart
  rest : Option (List (Nat × Nat)) := none
  bad : Nat := 0
  pages : List Nat := []
  ctr : Option CtrMsg := none
  deriving DecidableEq, Repr

/-- A completion on its way back to the origin (R181, R356). -/
structure Reply where
  core : Nat
  op : Nat
  status : Nat
  data : List Byte
  part : Nat
  deriving DecidableEq, Repr

/-- A WFENCE, post or completion-notice message (R247 to R249): where it goes, who sent it, the interval, how many accesses. -/
structure WinMsg where
  key : WinKey
  rank : Nat
  fi : Nat
  count : Nat
  last : Bool
  deriving DecidableEq, Repr

/-- A WLOCK or WUNLK request on its way to the target port (R250). -/
structure LockMsg where
  key : WinKey
  rank : Nat
  excl : Bool
  core : Nat
  op : Nat
  deriving DecidableEq, Repr

/-- A circuit entry on its way to its receiving core (R193, R194). -/
structure CircuitMsg where
  core : Nat
  ch : Nat
  present : BitVec 128
  lanes : List W32
  deriving DecidableEq, Repr

/-- A done notice, FINISHED, ABORT or deadline of a collective (R289, R290): participant reached, sender, digest, transfers, and
which of the collectives that the two share, or for a deadline which of the participant's own, it belongs to. -/
structure CollMsg where
  key : WinKey
  rank : Nat
  digest : List Int
  count : Nat
  seq : Nat
  deriving DecidableEq, Repr

/-- A command entry as the command processor takes it (R361). -/
structure Cmd where
  tag : BitVec 32
  ctx : BitVec 16
  res : BitVec 8
  w1 : W64
  w2 : W64
  w3 : W64
  w4 : W64
  w5 : W64
  w6 : W64
  w7 : W64
  deriving DecidableEq, Repr

/-- The fencing units (R387). -/
inductive UnitId where
  | core (bay id : Nat)
  | engine (bay id : Nat) (u : CUnit)
  | port (bay n : Nat)
  | channel (bay n : Nat)
  | link (n : Nat)
  | bay (n : Nat)
  deriving DecidableEq, Repr

/-- A soft error in SRAM (R388): one corrected in place, in a unit; or an uncorrectable one in a bay's dictionary store, in an entry of
a kernel's dictionary that must be reloaded. [DESIGN CHOICE: log 86] -/
inductive SoftError where
  | corrected (u : UnitId)
  | entry (bay seq n : Nat)
  deriving DecidableEq, Repr

/-- The life-cycle states (R382). -/
inductive LifeState where
  | manufacture | provisioned | deployed | decommissioned
  deriving DecidableEq, Repr

/-- A life-cycle request to the Azdor controller: whether its session is authenticated with an owner key (R392), whether it is signed
with one (R382), and the state it asks for. -/
structure LifeReq where
  auth : Bool
  signed : Bool
  target : LifeState
  deriving DecidableEq, Repr

/-- An attestation request: whether its session is authenticated with an owner key (R392), and its nonce (R386). -/
structure AttestReq where
  auth : Bool
  nonce : BitVec 512
  deriving DecidableEq, Repr

/-- The SHA-512 digests of the firmware that boot verifies: the Azdor controller's, the command processor's and the host-core
loader (R381 steps 1 and 2, R386). -/
structure Firmware where
  azdor : BitVec 512
  cp : BitVec 512
  loader : BitVec 512
  deriving DecidableEq, Repr

/-- What can fail in a boot: one of the firmware images (steps 1 and 2) or a unit (R381). -/
inductive BootUnit where
  | azdorFirmware
  | cpFirmware
  | hostLoader
  | unit (u : UnitId)
  deriving DecidableEq, Repr

/-- A step of the boot that fails, and the unit that fails in it (R381). [DESIGN CHOICE: log 81] -/
structure BootFailure where
  step : Nat
  unit : BootUnit
  deriving DecidableEq, Repr

/-- The rows of the table of operations. The order of the constructors means nothing; those that only the outside world or the
 command processor begins stand last. -/
inductive Instr where
  /-- NOP (R46). A slot whose opcode is 0x00 is that slot's no-op; it reads nothing, writes nothing and names no token. -/
  | nop (slot : Slot)
  /-- ADD (R74). Writes the 64-bit sum of two s registers, modulo 2^64. -/
  | add (f : RForm)
  /-- SUB (R74). Writes the 64-bit difference of two s registers, modulo 2^64. -/
  | sub (f : RForm)
  /-- MUL (R74). Writes the low 64 bits of the product of two s registers. -/
  | mul (f : RForm)
  /-- MULH (R74). Writes the high 64 bits of the 128-bit product, taking the operands as signed or unsigned. -/
  | mulh (f : RForm)
  /-- DIV (R74). Writes the quotient truncated toward zero; a divisor of zero gives all ones and sets DZ. -/
  | div (f : RForm)
  /-- REM (R74). Writes the remainder, which takes the sign of the dividend; a divisor of zero gives the dividend and sets DZ. -/
  | rem (f : RForm)
  /-- AND (R74). Writes the bitwise AND of two s registers. -/
  | and (f : RForm)
  /-- OR (R74). Writes the bitwise OR of two s registers. -/
  | or (f : RForm)
  /-- XOR (R74). Writes the bitwise XOR of two s registers. -/
  | xor (f : RForm)
  /-- ANDN (R74). Writes x AND NOT y. -/
  | andn (f : RForm)
  /-- SHL (R74). Writes x shifted left by the low six bits of y. -/
  | shl (f : RForm)
  /-- SHR (R74). Writes x shifted right logically by the low six bits of y. -/
  | shr (f : RForm)
  /-- SRA (R74). Writes x shifted right arithmetically by the low six bits of y. -/
  | sra (f : RForm)
  /-- ROT (R74). Writes x rotated right by the low six bits of y. -/
  | rot (f : RForm)
  /-- MIN (R74). Writes the lesser of two s registers under the signedness that FN selects. -/
  | min (f : RForm)
  /-- MAX (R74). Writes the greater of two s registers under the signedness that FN selects. -/
  | max (f : RForm)
  /-- CLZ (R74). Writes the number of leading zero bits of an s register. -/
  | clz (f : RForm)
  /-- POPC (R74). Writes the number of set bits of an s register. -/
  | popc (f : RForm)
  /-- SEL (R74). Writes x when the predicate named by FN is true, and y otherwise. -/
  | sel (f : RForm)
  /-- CMP (R75). Writes a predicate with an integer comparison of two s registers. -/
  | cmp (f : RForm)
  /-- AWR (R76). Writes bits [45:0] of an s register to an address register. -/
  | awr (f : RForm)
  /-- ARD (R76). Copies an address register to an s register. -/
  | ard (f : RForm)
  /-- AINC (R76). Adds an s register to the OFF field of an address register, modulo 2^24. -/
  | ainc (f : RForm)
  /-- ADD_I (R74). I form of ADD, with a sign-extended immediate. -/
  | addI (f : IForm)
  /-- SUB_I (R74). I form of SUB, with a sign-extended immediate. -/
  | subI (f : IForm)
  /-- MUL_I (R74). I form of MUL, with a sign-extended immediate. -/
  | mulI (f : IForm)
  /-- MULH_I (R74). I form of MULH, signed, with a sign-extended immediate. -/
  | mulhI (f : IForm)
  /-- DIV_I (R74). I form of DIV, signed, with a sign-extended immediate. -/
  | divI (f : IForm)
  /-- REM_I (R74). I form of REM, signed, with a sign-extended immediate. -/
  | remI (f : IForm)
  /-- AND_I (R74). I form of AND, with a zero-extended immediate. -/
  | andI (f : IForm)
  /-- OR_I (R74). I form of OR, with a zero-extended immediate. -/
  | orI (f : IForm)
  /-- XOR_I (R74). I form of XOR, with a zero-extended immediate. -/
  | xorI (f : IForm)
  /-- ANDN_I (R74). I form of ANDN, with a zero-extended immediate. -/
  | andnI (f : IForm)
  /-- SHL_I (R74). I form of SHL, with the shift count in IMM[5:0]. -/
  | shlI (f : IForm)
  /-- SHR_I (R74). I form of SHR, with the shift count in IMM[5:0]. -/
  | shrI (f : IForm)
  /-- SRA_I (R74). I form of SRA, with the shift count in IMM[5:0]. -/
  | sraI (f : IForm)
  /-- ROT_I (R74). I form of ROT, with the rotate count in IMM[5:0]. -/
  | rotI (f : IForm)
  /-- MIN_I (R74). I form of MIN, signed, with a sign-extended immediate. -/
  | minI (f : IForm)
  /-- MAX_I (R74). I form of MAX, signed, with a sign-extended immediate. -/
  | maxI (f : IForm)
  /-- AINC_I (R76). I form of AINC: adds a sign-extended immediate to the OFF field of an address register. -/
  | aincI (f : IForm)
  /-- MOVI (R77). Writes a sign-extended 32-bit immediate to an s register. -/
  | movi (f : IForm)
  /-- MOVHI (R77). Replaces bits [63:32] of an s register with the immediate. -/
  | movhi (f : IForm)
  /-- FADD (R78). Writes the rounded binary32 sum of two s registers. -/
  | fadd (f : RForm)
  /-- FMUL (R78). Writes the rounded binary32 product of two s registers. -/
  | fmul (f : RForm)
  /-- FFMA (R78). Writes x × y plus the old destination, rounded once, in binary32. -/
  | ffma (f : RForm)
  /-- FMIN (R78). Writes the lesser binary32 value, with −0 ordered below +0. -/
  | fmin (f : RForm)
  /-- FMAX (R78). Writes the greater binary32 value, with −0 ordered below +0. -/
  | fmax (f : RForm)
  /-- FCMP (R78). Writes a predicate with a binary32 comparison. -/
  | fcmp (f : RForm)
  /-- CVTIF (R78). Converts a 64-bit integer to binary32. -/
  | cvtif (f : RForm)
  /-- CVTFI (R78). Converts a binary32 value to a 64-bit integer, saturating at the bounds. -/
  | cvtfi (f : RForm)
  /-- LDS (R80). Loads 1, 2, 4 or 8 scratchpad bytes into an s register. -/
  | lds (f : IForm)
  /-- STS (R80). Stores the low 1, 2, 4 or 8 bytes of an s register to the scratchpad. -/
  | sts (f : IForm)
  /-- HLD (R82). Loads a reference from the pool through the yard barrier; a reference that is not current is redirected and its slot is healed. -/
  | hld (f : IForm)
  /-- HST (R83). Stores an h register to an aligned 8-byte pool slot, with no barrier. -/
  | hst (f : IForm)
  /-- HMOV (R84). Moves a reference between h registers, or between an h and an s register. -/
  | hmov (f : RForm)
  /-- HPIN (R85). Resolves a reference, increments the object's pin count and returns its raw address. -/
  | hpin (f : RForm)
  /-- HUNPIN (R86). Decrements the pin count of the object that a reference names. -/
  | hunpin (f : RForm)
  /-- HNULL (R84). Writes the null reference to an h register. -/
  | hnull (f : RForm)
  /-- BR (R87). Branches to the target when the guard predicate differs from PS. -/
  | br (f : BForm)
  /-- JMP (R87). Branches to the target unconditionally. -/
  | jmp (f : BForm)
  /-- CALL (R87). A guarded branch that writes the position of the following bundle to s63. -/
  | call (f : BForm)
  /-- RET (R87). Jumps to the position held in an s register. -/
  | ret (f : RForm)
  /-- LOOP (R88). Sets a hardware loop counter to an s register plus an immediate. -/
  | loop (f : IForm)
  /-- LEND (R88). Decrements a loop counter and branches to the loop start while the counter was above 1. -/
  | lend (f : BForm)
  /-- HALT (R89). Releases the withheld effects, then waits for every token and handle before the core halts. -/
  | halt (f : RForm)
  /-- TRAP (R89). Raises a SOFTWARE trap that carries an immediate code. -/
  | trap (f : IForm)
  /-- TRET (R89). Returns from handler mode: KSTATUS is restored from KSAVE with the sticky flags ORed, and issue resumes at TRAPPC. -/
  | tret (f : RForm)
  /-- YIELD (R89). When a pre-emption of the kernel is pending, stops the core and saves it at its last brace. -/
  | yield (f : RForm)
  /-- TWAIT (R90). Waits until a token is done, then traps if the token carries an error status. -/
  | twait (f : RForm)
  /-- TTEST (R90). Writes a predicate that tells whether a token is done. -/
  | ttest (f : RForm)
  /-- SLEEPT (R90). Sleeps until MCYC reaches a token's promise, then freezes until the token is done. -/
  | sleept (f : RForm)
  /-- TPROM (R90). Reads a token's promise into an s register. -/
  | tprom (f : RForm)
  /-- WAITL (R91). Waits until a handle is local, complete or idle. -/
  | waitl (f : RForm)
  /-- WAITR (R91). Waits until a handle is complete or idle, and traps on a nonzero status. -/
  | waitr (f : RForm)
  /-- GETSR (R94). Reads a system register into an s register. -/
  | getsr (f : IForm)
  /-- SETSR (R94). Writes a system register, with the per-register behaviour of KSTATUS, KSAVE, FTB and FTSEL. -/
  | setsr (f : IForm)
  /-- FTSET (R95). Sets FTB and FTSEL, which select the format-table row. -/
  | ftset (f : IForm)
  /-- FTLD (R95). Checks a shape word and loads it into a format register. -/
  | ftld (f : RForm)
  /-- STEPADV (R96). Advances the context's STEP by n; the advance is withheld until the next brace. -/
  | stepadv (f : IForm)
  /-- KEST (R97). Writes the remaining-time estimate KEST. -/
  | kest (f : RForm)
  /-- VADD (R104). Element-wise addition over the acting lanes. -/
  | vadd (f : VForm)
  /-- VSUB (R104). Element-wise subtraction over the acting lanes. -/
  | vsub (f : VForm)
  /-- VMUL (R104). Element-wise multiplication over the acting lanes. -/
  | vmul (f : VForm)
  /-- VFMA (R104). Element-wise x × y + d, rounded once. -/
  | vfma (f : VForm)
  /-- VFMS (R104). Element-wise x × y − d, rounded once. -/
  | vfms (f : VForm)
  /-- VMIN (R104). Element-wise minimum. -/
  | vmin (f : VForm)
  /-- VMAX (R104). Element-wise maximum. -/
  | vmax (f : VForm)
  /-- VABS (R104). Element-wise absolute value. -/
  | vabs (f : VForm)
  /-- VNEG (R104). Element-wise negation. -/
  | vneg (f : VForm)
  /-- VMOVI (R105). Writes a 14-bit signed immediate to every element of the acting lanes. -/
  | vmovi (f : VForm)
  /-- VAND (R106). Bitwise AND of two lanes. -/
  | vand (f : VForm)
  /-- VOR (R106). Bitwise OR of two lanes. -/
  | vor (f : VForm)
  /-- VXOR (R106). Bitwise XOR of two lanes. -/
  | vxor (f : VForm)
  /-- VNOT (R106). Bitwise NOT of a lane. -/
  | vnot (f : VForm)
  /-- VSHL (R106). Element-wise left shift. -/
  | vshl (f : VForm)
  /-- VSHR (R106). Element-wise logical right shift. -/
  | vshr (f : VForm)
  /-- VSRA (R106). Element-wise arithmetic right shift. -/
  | vsra (f : VForm)
  /-- VPOPC (R106). Element-wise population count. -/
  | vpopc (f : VForm)
  /-- VCLZ (R106). Element-wise count of leading zeros. -/
  | vclz (f : VForm)
  /-- VSEL (R108). Selects each lane from one of two registers by a q predicate. -/
  | vsel (f : VForm)
  /-- VQAND (R109). ANDs two q predicates bit by bit. -/
  | vqand (f : VForm)
  /-- VQOR (R109). ORs two q predicates bit by bit. -/
  | vqor (f : VForm)
  /-- VQNOT (R109). Negates a q predicate bit by bit. -/
  | vqnot (f : VForm)
  /-- VCMP_EQ (R107). Sets a predicate bit for each acting lane with an equality comparison. -/
  | vcmpEq (f : VForm)
  /-- VCMP_NE (R107). Sets a predicate bit for each acting lane with an inequality comparison. -/
  | vcmpNe (f : VForm)
  /-- VCMP_LT (R107). Sets a predicate bit for each acting lane with a less-than comparison. -/
  | vcmpLt (f : VForm)
  /-- VCMP_LE (R107). Sets a predicate bit for each acting lane with a less-or-equal comparison. -/
  | vcmpLe (f : VForm)
  /-- VCMP_GT (R107). Sets a predicate bit for each acting lane with a greater-than comparison. -/
  | vcmpGt (f : VForm)
  /-- VCMP_GE (R107). Sets a predicate bit for each acting lane with a greater-or-equal comparison. -/
  | vcmpGe (f : VForm)
  /-- VEXP2 (R110). Correctly rounded 2^x in f32. -/
  | vexp2 (f : VForm)
  /-- VLOG2 (R110). Correctly rounded log2 x in f32. -/
  | vlog2 (f : VForm)
  /-- VRCP (R110). Correctly rounded reciprocal in f32. -/
  | vrcp (f : VForm)
  /-- VRSQ (R110). Correctly rounded reciprocal square root in f32. -/
  | vrsq (f : VForm)
  /-- VSQRT (R110). Correctly rounded square root in f32. -/
  | vsqrt (f : VForm)
  /-- VCVT (R112). Converts each element between types that have the same number of elements per lane. -/
  | vcvt (f : VForm)
  /-- VPACK (R113). Narrows the elements of each course into the low lanes and zeroes the rest. -/
  | vpack (f : VForm)
  /-- VUNPK (R113). Widens the elements of the low lanes of each course. -/
  | vunpk (f : VForm)
  /-- VLD (R114). Loads a 512-byte register image from the scratchpad. -/
  | vld (f : VForm)
  /-- VST (R114). Stores the acting lanes of a register image to the scratchpad. -/
  | vst (f : VForm)
  /-- VLDX (R115). Gathers 32-bit elements by an index vector. -/
  | vldx (f : VForm)
  /-- VSTX (R115). Scatters 32-bit elements by an index vector. -/
  | vstx (f : VForm)
  /-- VSTMB (R116). Stores a q predicate as a one-bit mask. -/
  | vstmb (f : VForm)
  /-- VLDMB (R116). Loads a one-bit mask into a q predicate. -/
  | vldmb (f : VForm)
  /-- VBCAST (R118). Broadcasts one lane across its course. -/
  | vbcast (f : VForm)
  /-- VEXTR (R118). Extracts one element of each lane and widens it to 32 bits. -/
  | vextr (f : VForm)
  /-- VPERM (R118). Permutes lanes within each course by an index register. -/
  | vperm (f : VForm)
  /-- VXCRS (R119). Moves lanes from the course d places away. -/
  | vxcrs (f : VForm)
  /-- VRADD (R120). Sums the 16 lanes of each course in a fixed tree. -/
  | vradd (f : VForm)
  /-- VRMAX (R120). Takes the maximum of the 16 lanes of each course. -/
  | vrmax (f : VForm)
  /-- VRMIN (R120). Takes the minimum of the 16 lanes of each course. -/
  | vrmin (f : VForm)
  /-- VWSTMP (R121). Writes STEP mod 2^24 to each acting lane. -/
  | vwstmp (f : VForm)
  /-- VWFAC (R121). Writes the weathering factor for each stamp lane. -/
  | vwfac (f : VForm)
  /-- VWMRG (R122). Merges two weathered lines, both brought to the current step. -/
  | vwmrg (f : VForm)
  /-- VZRD (R123). Copies a row pair of an accumulator tile into a v register. -/
  | vzrd (f : VForm)
  /-- VZWR (R123). Copies a v register into a row pair of an accumulator tile. -/
  | vzwr (f : VForm)
  /-- MMA (R136). Enqueues a block-scaled matrix multiply that accumulates into a tile. -/
  | mma (f : MForm)
  /-- MMAI (R136). Enqueues a matrix multiply that clears the tile first. -/
  | mmai (f : MForm)
  /-- MMAS (R140). Enqueues a matrix multiply whose B operand is gathered from a CSR descriptor. -/
  | mmas (f : MForm)
  /-- MGATH (R141). Gathers a CSR slice and writes it to the pool as a dense B operand. -/
  | mgath (f : MForm)
  /-- MZERO (R142). Writes +0.0 to every element of a tile. -/
  | mzero (f : MForm)
  /-- MZLD (R142). Loads a tile from FP32 values in the pool. -/
  | mzld (f : MForm)
  /-- MZST (R143). Converts a tile and stores it to the pool. -/
  | mzst (f : MForm)
  /-- MTRN (R144). Copies a block of containers from the pool to the pool, transposed. -/
  | mtrn (f : MForm)
  /-- CPGET (R155). Issues a linear copy from virtual memory to the pool. -/
  | cpget (f : CForm)
  /-- CPPUT (R155). Issues a linear copy from the pool to virtual memory, as an outward effect. -/
  | cpput (f : CForm)
  /-- CPFILL (R155). Fills pool bytes with a repeating 8-byte pattern. -/
  | cpfill (f : CForm)
  /-- CPSTR (R156). Issues a strided row copy in either direction. -/
  | cpstr (f : CForm)
  /-- CPTILE (R158). Copies a tile into the pool, with edge fill, optional transpose and optional scales. -/
  | cptile (f : CForm)
  /-- CPPAIR (R159). Writes a pool block to memory both plain and transposed, as one outward operation. -/
  | cppair (f : CForm)
  /-- CPBAY (R161). Copies between the local scratchpad and another core's scratchpad in the bay. -/
  | cpbay (f : CForm)
  /-- NMCMD (R162). Sends a near-memory command record; its execution is withheld until release. -/
  | nmcmd (f : CForm)
  /-- CPWGET (R166). Gets weathered lines, each brought to the current step. -/
  | cpwget (f : CForm)
  /-- CPWPUT (R167). Puts weathered lines, each restamped with STEP. -/
  | cpwput (f : CForm)
  /-- CPWACC (R167). Accumulates pool lines into weathered memory lines at the near-memory unit. -/
  | cpwacc (f : CForm)
  /-- HGET (R168). Copies a yard object field into the pool through the barrier. -/
  | hget (f : CForm)
  /-- HPUT (R168). Copies pool bytes into a yard object field, as an outward write. -/
  | hput (f : CForm)
  /-- HACC (R168). Adds f32 or i32 elements into a yard object field atomically. -/
  | hacc (f : CForm)
  /-- FENCE (R169). Issues a colour fence whose token becomes done once the covered stores are visible at its scope. -/
  | fence (f : CForm)
  /-- SCFENCE (R268). Issues a sequentially consistent fence that takes its place in the SC order. -/
  | scfence (f : CForm)
  /-- WCREATE (R178). Collectively creates an exposure window. -/
  | wcreate (f : CForm)
  /-- WFREE (R179). Collectively frees a window. -/
  | wfree (f : CForm)
  /-- WGET (R181). Reads bytes from a target member's window range. -/
  | wget (f : CForm)
  /-- WPUT (R181). Writes pool bytes to a target member's window range. -/
  | wput (f : CForm)
  /-- WACC (R181). Combines pool elements into a target window range. -/
  | wacc (f : CForm)
  /-- WFAA (R183). Remote fetch-and-op at the target port's atomic cache. -/
  | wfaa (f : CForm)
  /-- WCAS (R183). Remote compare-and-swap at the target port. -/
  | wcas (f : CForm)
  /-- WSWAP (R183). Remote swap at the target port. -/
  | wswap (f : CForm)
  /-- WFENCE (R185). Closes the current fence interval of a window and, unless END is set, opens the next. -/
  | wfence (f : CForm)
  /-- WPOST (R185). Opens exposure of a window to a group of origins. -/
  | wpost (f : CForm)
  /-- WSTART (R185). Opens access to a group of targets. -/
  | wstart (f : CForm)
  /-- WCMPL (R185). Closes an access epoch and sends completion notices. -/
  | wcmpl (f : CForm)
  /-- WWAIT (R185). Closes exposure once every origin of the group has completed. -/
  | wwait (f : CForm)
  /-- WLOCK (R185). Queues a shared or exclusive lock request at the target port. -/
  | wlock (f : CForm)
  /-- WUNLK (R185). Releases a lock once this origin's operations to the target have completed. -/
  | wunlk (f : CForm)
  /-- CNTINC (R186). Adds to a counter as a release; with a negative increment on a queue counter it is a take. -/
  | cntinc (f : CForm)
  /-- CNTRD (R186). Reads a counter into the pool as an acquire. -/
  | cntrd (f : CForm)
  /-- CTRIG (R188). Arms a trigger table entry at release with a window operation that fires on a counter threshold. -/
  | ctrig (f : CForm)
  /-- CTDIS (R188). Frees an armed trigger entry that has not yet fired. -/
  | ctdis (f : CForm)
  /-- BARINIT (R190). Initialises a barrier object's expected count. -/
  | barinit (f : CForm)
  /-- BARARR (R190). Arrives at a barrier with a count, as a release at bay scope. -/
  | bararr (f : CForm)
  /-- BARWAIT (R191). Waits, within a bound, for a barrier's phase to change, as an acquire. -/
  | barwait (f : CForm)
  /-- BAYADD (R192). Fetch-and-op on a word in another core's scratchpad of the bay. -/
  | bayadd (f : CForm)
  /-- BAYCAS (R192). Compare-and-swap on a word in another core's scratchpad of the bay. -/
  | baycas (f : CForm)
  /-- COLL (R197). Starts the C1 walker on a loop-nest record of a collective. -/
  | coll (f : CForm)
  /-- COLLQ (R198). Writes the status of this core's most recent collective. -/
  | collq (f : CForm)
  /-- SEND (R194). Sends a vector register on an outgoing circuit. -/
  | send (f : KForm)
  /-- RECV (R194). Consumes the oldest entry of an incoming circuit into a vector register, freezing while the queue is empty. -/
  | recv (f : KForm)
  /-- RECVADD (R193). Receives an entry and adds it lane by lane in f32. -/
  | recvadd (f : KForm)
  /-- RECVMAX (R193). Receives an entry and takes the maximum lane by lane. -/
  | recvmax (f : KForm)
  /-- C_OP_ACCEPT (R148). A copy engine accepts a queued operation, sets its promise, and translates and checks its addresses. -/
  | cOpAccept (u : CUnit)
  /-- C_OP_LOCAL_COMPLETE (R150). A copy-engine operation completes locally, and its token becomes done with its status. -/
  | cOpLocalComplete (op : Nat)
  /-- STAGED_DRAIN (R152). Bytes of a released outward effect that were staged in the shore log are drained to memory. -/
  | stagedDrain (op : Nat)
  /-- NEAR_MEMORY_EXECUTE (R163). The near-memory unit executes a released command, CPWACC or HACC element by element. -/
  | nearMemoryExecute (op : Nat)
  /-- FENCE_COMPLETE (R169). A fence token becomes done once its covered stores are visible, and reports any error found at memory. -/
  | fenceComplete (op : Nat)
  /-- YARD_LOOKUP_REPLY (R323). The relay engine answers a forwarding lookup, ending an HLD or HPIN freeze or releasing a copy access. -/
  | yardLookupReply (op : Option Nat)
  /-- KERNEL_RETIREMENT (R24). With every core halted and every store visible, the kernel retires, its windows end and its completion record is appended. -/
  | kernelRetirement (k : Nat)
  /-- REMOTE_ACCESS_ARRIVAL (R242). A window, atomic or collective access reaches its ingress port, is checked in order, and is applied, held, stored or rejected. -/
  | remoteAccessArrival (a : Access)
  /-- TARGET_AWAY_RETRY (R297). After 8,192 beats the origin retries an access answered TARGET-AWAY. -/
  | targetAwayRetry (a : Access)
  /-- REMOTE_COMPLETION (R181). A remote completion or reply reaches the origin and completes a handle, or is parked for a pre-empted context. -/
  | remoteCompletion (r : Reply)
  /-- WFENCE_ARRIVAL (R247). A WFENCE message reaches a port, which closes and opens intervals once its counts are met. -/
  | wfenceArrival (m : WinMsg)
  /-- POST_ARRIVAL (R249). A post reaches an origin's latch, where it is counted or dropped, and held WSTART accesses proceed. -/
  | postArrival (m : WinMsg)
  /-- COMPLETION_NOTICE_ARRIVAL (R248). An origin's completion notice reaches the target and updates the exposure state. -/
  | completionNoticeArrival (m : WinMsg)
  /-- LOCK_REQUEST_ARRIVAL (R250). A WLOCK request reaches the target port and is granted, queued or refused. -/
  | lockRequestArrival (m : LockMsg)
  /-- UNLOCK_ARRIVAL (R250). A WUNLK reaches the target port, which removes the holder and grants from the head of the queue. -/
  | unlockArrival (m : LockMsg)
  /-- LOCK_RETRY (R185). A lock request refused at a full queue is retried after 4,096 beats. -/
  | lockRetry (m : LockMsg)
  /-- LOCK_BREAK (R251). A holder that has kept the lock for LOCKB × 2^16 cc while others wait loses it. -/
  | lockBreak (w : WinKey)
  /-- LEASE_EXPIRY (R254). An atomic-cache lease of 512 beats ends and the line is written back. -/
  | leaseExpiry (line : Nat)
  /-- COUNTER_INCREMENT (R294). The bay counter unit applies an increment and checks the armed triggers. -/
  | counterIncrement (m : CtrMsg)
  /-- TRIGGER_FIRE (R188). An armed trigger whose counter has reached THR fires its window operation. -/
  | triggerFire (core tid : Nat)
  /-- QUEUE_TAKE_GRANT (R370). A waiting take on a queue counter is granted once the counter holds at least n. -/
  | queueTakeGrant (ctx qid : Nat) (fill : Bool)
  /-- BAY_ATOMIC_OP (R189). The bay atomic unit executes a barrier operation, BAYADD or BAYCAS on its object. -/
  | bayAtomicOp (core op : Nat)
  /-- BARWAIT_TIMEOUT (R191). A BARWAIT's bound passes without a phase change, so its token ends with status 2. -/
  | barwaitTimeout (op : Nat)
  /-- CIRCUIT_ENTRY_ARRIVAL (R194). A SEND's entry reaches the receiving queue, ending any receive freeze. -/
  | circuitEntryArrival (m : CircuitMsg)
  /-- DONE_NOTICE_ARRIVAL (R289). A done notice reaches a participant's port, which finalises and delivers its blocks once all counts are met. -/
  | doneNoticeArrival (m : CollMsg)
  /-- COLL_FINISHED_ARRIVAL (R290). A FINISHED message arrives; when all P have arrived, the handle completes and the outcome block is written. -/
  | collFinishedArrival (m : CollMsg)
  /-- COLL_ABORT_ARRIVAL (R290). An ABORT message arrives, so the handle completes INCOMPLETE and the ports discard their accumulators. -/
  | collAbortArrival (m : CollMsg)
  /-- COLL_DEADLINE (R290). A participant's deadline passes before FINISHED, and it sends ABORT. -/
  | collDeadline (m : CollMsg)
  /-- INVAL_COMPLETE (R377). An INVAL completes once every access under a removed entry has completed. -/
  | invalComplete (seq : Nat)
  /-- MIGRATE_COMPLETE (R275). With accesses drained and leases written back, the page is copied, switched and its held accesses released. -/
  | migrateComplete (seq : Nat)
  /-- RELAY_BATCH_TURN (R325). A batch's turn comes: it is checked, then admitted or refused. -/
  | relayBatchTurn (r : RegKey)
  /-- FLIP_FENCE_ACK (R326). A copy engine acknowledges the flip fence once its accesses to the moved ranges have drained. -/
  | flipFenceAck (r : RegKey) (core : Nat) (u : CUnit)
  /-- RELAY_COPY (R326). After the flip fence, the objects are copied in 512-byte blocks, with demanded blocks copied first. -/
  | relayCopy (r : RegKey)
  /-- RELAY_FINISH (R326). The source headers are marked forwarded and a relay record is journalled. -/
  | relayFinish (r : RegKey)
  /-- EPOCH_ADVANCE (R327). Roots and h registers are healed, EPOCH advances, the relay window empties and old entries are released. -/
  | epochAdvance (r : RegKey)
  /-- SEAL_COMPLETE (R385). Once the accepted writes have completed, the region's digest is recorded in the attestation set. -/
  | sealComplete (seq : Nat)
  /-- KERNEL_BIND (R367). A bindable launch is bound whole: dictionary placed, pools wiped, constants written, bond tables loaded, entry segment expanded. -/
  | kernelBind (k : Nat)
  /-- KERNEL_START (R368). Every core of the bound kernel issues its first bundle in the same MCYC. -/
  | kernelStart (k : Nat)
  /-- DRAIN_HORIZON_EXPIRY (R351). A drained kernel has not retired after 2 × D cc, and the decision is taken again. -/
  | drainHorizonExpiry (k : Nat)
  /-- CHECKPOINT_BOUND_EXPIRY (R352). The checkpoint bound expires, so waiting and running cores are rolled back to their last brace. -/
  | checkpointBoundExpiry (k : Nat)
  /-- CHECKPOINT_SAVE (R354). With every core stopped, each core is saved to the context save area and the kernel becomes pre-empted. -/
  | checkpointSave (k : Nat) (ok : Bool)
  /-- RESUME (R357). A pre-empted kernel is restored: pools, registers, parked replies, backlog replay, triggers, then the brace bundle re-issues. -/
  | resume (k : Nat)
  /-- AGING_TICK (R372). Each 2^20 cc a waiting entry's age count and tokens rise by one. -/
  | agingTick (k : Nat)
  /-- SWEEP_PASS_START (R311). A repointing pass over the context's weathered memory starts. -/
  | sweepPassStart (ctx bay : Nat)
  /-- SWEEP_LINE_STEP (R312). The sweeper takes a line slot and rewrites, restamps or leaves one weathered line. -/
  | sweepLineStep (ctx bay : Nat)
  /-- UNIT_FENCE (R387). A unit is fenced, and every kernel that uses it takes a context fault. -/
  | unitFence (u : UnitId)
  /-- LINK_RETRAIN_TIMEOUT (R387). A link that fails to retrain within 10 ms is fenced. -/
  | linkRetrainTimeout (link : Nat)
  /-- ILLEGAL_ENCODING (R69). The sequencer reaches a bundle that the expander marked as trapping and raises ILLEGAL-ENCODING. -/
  | illegalEncoding (r : Reject)
  /-- LAUNCH (R365). The command that takes a launch record and queues a kernel for binding. -/
  | launch (c : Cmd)
  /-- QCREATE (R369). The command that creates a task-graph queue's FREE and FILL counters. -/
  | qcreate (c : Cmd)
  /-- QFREE (R369). The command that frees a queue. -/
  | qfree (c : Cmd)
  /-- KILL (R353). The command that stops a kernel at once, discards its effects and cancels its pending handles. -/
  | kill (c : Cmd)
  /-- MAP (R377). The command that writes leaf entries to every replica and invalidates the pages. -/
  | mapPages (c : Cmd)
  /-- INVAL (R377). The command that removes a range from every replica and TLB. -/
  | inval (c : Cmd)
  /-- FAULTREPLY (R378). The command that answers a translation fault with retry or refuse. -/
  | faultreply (c : Cmd)
  /-- MIGRATE (R380). The command that begins migrating a page by R275. -/
  | migrate (c : Cmd)
  /-- CLASSTAB (R371). The command that sets a priority class word of a context. -/
  | classtab (c : Cmd)
  /-- YARDREG (R362). The command that creates a yard region. -/
  | yardreg (c : Cmd)
  /-- RELAY (R325). The command that submits a relay batch for a region. -/
  | relay (c : Cmd)
  /-- EPOCH (R327). The command that requests an epoch advance of a region. -/
  | epoch (c : Cmd)
  /-- RATES (R305). The command that replaces one rate of the context's rate table. -/
  | rates (c : Cmd)
  /-- SEAL (R385). The command that marks a region sealed and invalidates its pages. -/
  | seal (c : Cmd)
  /-- READ (R364). The command that copies a window status, unmatched-access, weathering, trace or queue record to module memory. -/
  | readRecord (c : Cmd)
  /-- STRIPESET (R376). The command that sets a stripe-set table entry. -/
  | stripeset (c : Cmd)
  /-- SUBMISSION_QUEUE_TAIL_WRITE (R360). The driver writes a ring's tail index, which makes command entries available. -/
  | submissionQueueTailWrite (ring addr k tail : Nat)
  /-- JOURNAL_READ_INDEX_ADVANCE (R390). The driver advances the journal read index, which frees ring space. -/
  | journalReadIndexAdvance (upTo : Nat)
  /-- CONTEXT_CREATE (R383). The driver writes a context table entry with its policy word, and a key slot is assigned. -/
  | contextCreate (ctx : Nat) (policy : W64)
  /-- CONTEXT_DESTROY (R383). The driver clears a context entry, and its key slot is wiped. -/
  | contextDestroy (ctx : Nat)
  /-- STREAMED_BUNDLE (R217). A bundle streamed by the die sequencer executes in every core at once, or sets the streamed-error flag. -/
  | streamedBundle (bay seq : Nat) (b : BitVec 384)
  /-- POWER_ON_RESET (R381). Power-on or reset starts the boot: the controller and firmware are verified and self-test streaming begins.
  The argument says which step of this boot fails, if one does. [DESIGN CHOICE: log 81] -/
  | powerOnReset (fails : Option BootFailure)
  /-- SELF_TEST_END (R381). Self-test ends and failing cores and units are fenced. -/
  | selfTestEnd (failed : List UnitId)
  /-- LIFECYCLE_REQUEST (R382). A signed owner request changes the life-cycle state after a wipe. -/
  | lifecycleRequest (r : LifeReq)
  /-- ATTESTATION_REQUEST (R386). The controller answers a nonce with a signed attestation report. -/
  | attestationRequest (r : AttestReq)
  /-- FIRMWARE_UPDATE (R392). An update image is verified and staged for the next reset. -/
  | firmwareUpdate (auth verified : Bool) (image : Firmware)
  /-- TELEMETRY_REQUEST (R392). An authenticated session reads telemetry, error counters and fence reports. -/
  | telemetryRequest (auth : Bool)
  /-- SRAM_SOFT_ERROR (R388). A soft error in SRAM is corrected in place and counted toward the fencing threshold;
  an uncorrectable entry of a bay's dictionary store is reloaded. [DESIGN CHOICE: log 86] -/
  | sramSoftError (u : SoftError)
  /-- SRAM_UNCORRECTABLE_ERROR (R387). An uncorrectable error in a unit's own SRAM fences the unit. -/
  | sramUncorrectableError (u : UnitId)
  /-- HBM_UNCORRECTABLE_ERROR (R388). An uncorrectable HBM error poisons its 64-byte burst and a memory-event record is journalled. -/
  | hbmUncorrectableError (burst : Nat)
  /-- THERMAL_TRIP (R393). A die reaching its trip temperature fences every bay. -/
  | thermalTrip (die : Nat)
  /-- LINK_RETRAIN_START (R387). A Weade link loses its training and begins to retrain, which starts the 10 ms bound whose expiry fences the link. -/
  | linkRetrainStart (link : Nat)
  /-- BRACE (R337). A bundle with header bit BRACE set releases the withheld effects of the interval it closes, frees the receive entries consumed in it, takes the brace copies and starts a fresh shore log. -/
  | brace
  /-- TMARK (R45). A bundle with header bit TMARK set writes a trace marker to the trace buffer when it issues. -/
  | tmark
  /-- SEGMENT_END (R67). Control passes the last bundle of a segment whose NEXT is null and traps with reason 0x0D. -/
  | segmentEnd
  /-- EXPAND_BUNDLE (R215). The expander produces the next bundle of a requested segment and checks it. -/
  | expandBundle
  /-- S_RESULT_LAND (R72). An S-slot result is written to its destination after its latency. -/
  | sResultLand
  /-- V_RESULT_LAND (R100). A V-slot result lands and ORs its flags into KSTATUS. -/
  | vResultLand
  /-- M_OP_START (R132). The next queued matrix operation starts once its tokens, the array and its tiles are free, and its promise is set. -/
  | mOpStart
  /-- M_RESULT_LAND (R133). A matrix result lands: the tile or pool is written, the busy bit clears, flags are ORed and the token becomes done. -/
  | mResultLand
  /-- WDOG_EXPIRY (R211). A freeze reaches WDOG consecutive cc. -/
  | wdogExpiry
  /-- CORE_HALTED (R89). A halting core enters the halted state once every token is done and every handle is complete or idle. -/
  | coreHalted
  /-- WALKER_EMIT (R197). The released C1 walker emits the transfers of a collective. -/
  | walkerEmit
  /-- MEMORY_WIPE_END (R381). The SRAM and HBM wipe ends. -/
  | memoryWipeEnd
  /-- LINK_TRAINING_END (R381). The Weade links train, the beat base aligns, the OS starts and the queues open. -/
  | linkTrainingEnd
  /-- THERMAL_WARNING (R393). Inlet above 45 °C or flow below the rated flow raises a warning. -/
  | thermalWarning
  /-- SLEEP_END (R90). A SLEEPT's sleep ends when MCYC reaches the token's promise, and the core then runs on or freezes if the token is not yet done. -/
  | sleepEnd
  deriving DecidableEq, Repr

end Sys2Proof
end

