-- ==== Sys2Proof/Machine/Names.lean ====
section
/-! DEFINITION. The field-use tables of R55 to R60, R103, R112 and R113 as data: for every slot operation, each field with
its bit position in the slot, its value and what the table says of it. Legality (R70), the registers an operation reads and
writes (R61, R203) and the partition test (R15) are all read off this one list. -/

namespace Sys2Proof.Machine

/-- The register families a field can name (R13). -/
inductive Fam where
  | s | p | q | a | h | t | c | lc | fm | v | z
  deriving DecidableEq, Repr

/-- How many registers of a family a field may name before it is out of range; `v` and `z` are bounded by the partition
word instead (R15). -/
def Fam.size : Fam → Nat
  | .s => 64 | .p => 16 | .q => 16 | .a => 16 | .h => 16 | .t => 64 | .c => 32 | .lc => 4 | .fm => 16
  | .v => 16384 | .z => 256

/-- A register by family and number. -/
structure RegName where
  fam : Fam
  idx : Nat
  deriving DecidableEq, Repr

/-- What a field-use table says of a field: unused (must be zero), a register read or written, or a value that must be
allowed. -/
inductive Use where
  | zero
  | reg (fam : Fam) (rd wr : Bool)
  | allowed (ok : Bool)
  deriving DecidableEq, Repr

/-- One field of a slot, or a part of one: the bit position of the field in the slot's layout (R48 to R52, R70), value, use. -/
structure FieldUse where
  pos : Nat
  val : Nat
  use : Use
  deriving DecidableEq, Repr

/-- A field that breaks its table's rule with reason 0x08 (R70). -/
def FieldUse.bad (f : FieldUse) : Bool :=
  match f.use with
  | .zero => f.val != 0
  | .reg fam _ _ => decide (fam.size ≤ f.val)
  | .allowed ok => !ok

/-- A field use from position, value and use. -/
def fu (pos val : Nat) (use : Use) : FieldUse := ⟨pos, val, use⟩
/-- A register read. -/
def rd (fam : Fam) : Use := .reg fam true false
/-- A register written. -/
def wr (fam : Fam) : Use := .reg fam false true
/-- A register read and written. -/
def rw' (fam : Fam) : Use := .reg fam true true

/-- The fields of an R-form operation, guard included (R48, R55). -/
def rUse (f : RForm) (sd sa sb : Use) (fn : Nat → Bool) : List FieldUse :=
  [fu 22 f.fn.toNat (.allowed (fn f.fn.toNat)), fu 26 f.pg.toNat (rd .p), fu 30 f.sb.toNat sb, fu 36 f.sa.toNat sa,
   fu 42 f.sd.toNat sd]

/-- The fields of an I-form operation; the immediate's parts come first (R48, R55). -/
def iUse (f : IForm) (sd sa : Use) (imm : List FieldUse) : List FieldUse :=
  imm ++ [fu 32 f.pg.toNat (rd .p), fu 36 f.sa.toNat sa, fu 42 f.sd.toNat sd]

/-- The part [hi:lo] of an immediate that must be zero. -/
def immZero (f : IForm) (hi lo : Nat) : FieldUse := fu 0 (field hi lo f.imm.toNat) .zero

/-- The target of a B form: a local target has TGT[41:16] zero (R68). -/
def tgtUse (f : BForm) : FieldUse :=
  fu 16 (field 41 16 f.tgt.toNat) (.allowed (bitOf 42 f.tgt.toNat || field 41 16 f.tgt.toNat == 0))

/-- The element types R57 allows an operation. -/
def tyUse (f : VForm) (ok : List Nat) : FieldUse := fu 0 f.ty.toNat (.allowed (ok.contains f.ty.toNat))

/-- A V operation: type, guard, VB part, VA, VD and the course mask, which must not be zero (R49, R56). -/
def vUse (f : VForm) (tys : List Nat) (vb : List FieldUse) (va vd : Use) : List FieldUse :=
  [tyUse f tys, fu 3 f.qg.toNat (rd .q)] ++ vb ++
    [fu 20 f.va.toNat va, fu 34 f.vd.toNat vd, fu 48 f.cm.toNat (.allowed (f.cm.toNat != 0))]

/-- VB as a register. -/
def vbReg (f : VForm) (fam : Fam) : List FieldUse := [fu 6 f.vb.toNat (rd fam)]
/-- VB unused. -/
def vbZero (f : VForm) : List FieldUse := [fu 6 f.vb.toNat .zero]
/-- VB as a signed immediate or displacement: every value is allowed. -/
def vbImm (f : VForm) : List FieldUse := [fu 6 f.vb.toNat (.allowed true)]
/-- VB whose low `k` bits are a value and whose upper bits must be zero, with a test on the value. -/
def vbLow (f : VForm) (k : Nat) (ok : Nat → Bool) : List FieldUse :=
  [fu 6 (field (k - 1) 0 f.vb.toNat) (.allowed (ok (field (k - 1) 0 f.vb.toNat))), fu 6 (field 13 k f.vb.toNat) .zero]

/-- Elements per lane of a type code other than 111 (R99). -/
def elemsOfTy (ty : Nat) : Nat := if ty < 3 then 1 else if ty < 6 then 2 else 4

/-- The control word of VCVT, VPACK and VUNPK (R56, R112, R113): destination type, mode, the two fm fields and VB[13:12]. Where the two
types do not go together the control word is the offending field. [DESIGN CHOICE: log 117] -/
def vbConv (f : VForm) (pair : Nat → Nat → Bool) : List FieldUse :=
  let b := f.vb.toNat
  let d := field 2 0 b
  [fu 6 d (.allowed (pair f.ty.toNat d)),
   fu 6 (field 7 4 b) (.allowed (d == 7 || field 7 4 b == 0)),
   fu 6 (field 11 8 b) (.allowed (f.ty.toNat == 7 || field 11 8 b == 0)),
   fu 6 (field 13 12 b) .zero]
  ++ (if d == 7 then [fu 6 (field 7 4 b) (rd .fm)] else [])
  ++ (if f.ty.toNat == 7 then [fu 6 (field 11 8 b) (rd .fm)] else [])

/-- R112: two types of one element count, neither of them fm. -/
def cvtPair (s d : Nat) : Bool := s < 7 && d < 7 && elemsOfTy s == elemsOfTy d
/-- R113: VPACK goes to more elements a lane; an fm destination always has more. -/
def packPair (s d : Nat) : Bool := s < 6 && (d == 7 || elemsOfTy s < elemsOfTy d)
/-- R113: VUNPK goes to fewer elements a lane, from any packed type. -/
def unpkPair (s d : Nat) : Bool := 3 ≤ s && d < 6 && (s == 7 || elemsOfTy d < elemsOfTy s)

/-- A TI field equal to TO means no token; any other names a token waited on (R53). -/
def tiUse (pos : Nat) (t o : BitVec 6) : FieldUse := fu pos t.toNat (if t = o then .allowed true else rd .t)

/-- The fields of an M operation (R50, R58). -/
def mUse (f : MForm) (zd aa ab : Use) : List FieldUse :=
  [tiUse 0 f.t3 f.tO, tiUse 6 f.t2 f.tO, tiUse 12 f.t1 f.tO, fu 18 f.tO.toNat (wr .t), fu 24 f.ab.toNat ab,
   fu 28 f.aa.toNat aa, fu 32 f.zd.toNat zd]

/-- The fields of a C operation (R51, R59). -/
def cUse (f : CForm) (sx sy : List FieldUse) (ap : Use) : List FieldUse :=
  [tiUse 0 f.t3 f.tO, tiUse 6 f.t2 f.tO, tiUse 12 f.t1 f.tO, fu 18 f.tO.toNat (wr .t), fu 24 f.ap.toNat ap] ++ sy ++ sx

/-- SX as one field. -/
def sxU (f : CForm) (u : Use) : List FieldUse := [fu 34 f.sx.toNat u]
/-- SY as one field. -/
def syU (f : CForm) (u : Use) : List FieldUse := [fu 28 f.sy.toNat u]

/-- The fields of a K operation (R52, R60). -/
def kUse (f : KForm) (vr : Use) : List FieldUse :=
  [fu 6 f.qg.toNat (rd .q), fu 10 f.ch.toNat (.allowed true), fu 18 f.vr.toNat vr,
   fu 32 f.cm.toNat (.allowed (f.cm.toNat != 0))]

/-- The system-register numbers of R17. -/
def srKnown (n : Nat) : Bool := n < 18 && n != 7

/-- FN must be zero. -/
def fn0 (n : Nat) : Bool := n == 0

/-- Every field of a slot operation as its field-use table gives it; an event has no slot and no field. -/
def fieldUses : Instr → List FieldUse
  | .nop _ => []
  | .brace => []
  | .tmark => []
  | .add f => rUse f (wr .s) (rd .s) (rd .s) fn0
  | .sub f => rUse f (wr .s) (rd .s) (rd .s) fn0
  | .mul f => rUse f (wr .s) (rd .s) (rd .s) fn0
  | .mulh f => rUse f (wr .s) (rd .s) (rd .s) (· < 2)
  | .div f => rUse f (wr .s) (rd .s) (rd .s) (· < 2)
  | .rem f => rUse f (wr .s) (rd .s) (rd .s) (· < 2)
  | .and f => rUse f (wr .s) (rd .s) (rd .s) fn0
  | .or f => rUse f (wr .s) (rd .s) (rd .s) fn0
  | .xor f => rUse f (wr .s) (rd .s) (rd .s) fn0
  | .andn f => rUse f (wr .s) (rd .s) (rd .s) fn0
  | .shl f => rUse f (wr .s) (rd .s) (rd .s) fn0
  | .shr f => rUse f (wr .s) (rd .s) (rd .s) fn0
  | .sra f => rUse f (wr .s) (rd .s) (rd .s) fn0
  | .rot f => rUse f (wr .s) (rd .s) (rd .s) fn0
  | .min f => rUse f (wr .s) (rd .s) (rd .s) (· < 2)
  | .max f => rUse f (wr .s) (rd .s) (rd .s) (· < 2)
  | .clz f => rUse f (wr .s) (rd .s) .zero fn0
  | .popc f => rUse f (wr .s) (rd .s) .zero fn0
  | .sel f => rUse f (wr .s) (rd .s) (rd .s) (fun _ => true) ++ [fu 22 f.fn.toNat (rd .p)]
  | .cmp f => rUse f (wr .p) (rd .s) (rd .s) (· < 6)
  | .awr f => rUse f (wr .a) (rd .s) .zero fn0
  | .ard f => rUse f (wr .s) (rd .a) .zero fn0
  | .ainc f => rUse f (rw' .a) (rd .s) .zero fn0
  | .addI f => iUse f (wr .s) (rd .s) []
  | .subI f => iUse f (wr .s) (rd .s) []
  | .mulI f => iUse f (wr .s) (rd .s) []
  | .mulhI f => iUse f (wr .s) (rd .s) []
  | .divI f => iUse f (wr .s) (rd .s) []
  | .remI f => iUse f (wr .s) (rd .s) []
  | .andI f => iUse f (wr .s) (rd .s) []
  | .orI f => iUse f (wr .s) (rd .s) []
  | .xorI f => iUse f (wr .s) (rd .s) []
  | .andnI f => iUse f (wr .s) (rd .s) []
  | .shlI f => iUse f (wr .s) (rd .s) [immZero f 31 6]
  | .shrI f => iUse f (wr .s) (rd .s) [immZero f 31 6]
  | .sraI f => iUse f (wr .s) (rd .s) [immZero f 31 6]
  | .rotI f => iUse f (wr .s) (rd .s) [immZero f 31 6]
  | .minI f => iUse f (wr .s) (rd .s) []
  | .maxI f => iUse f (wr .s) (rd .s) []
  | .aincI f => iUse f (rw' .a) .zero []
  | .movi f => iUse f (wr .s) .zero []
  | .movhi f => iUse f (rw' .s) .zero []
  | .fadd f => rUse f (wr .s) (rd .s) (rd .s) (· < 2)
  | .fmul f => rUse f (wr .s) (rd .s) (rd .s) (· < 2)
  | .ffma f => rUse f (rw' .s) (rd .s) (rd .s) (· < 2)
  | .fmin f => rUse f (wr .s) (rd .s) (rd .s) fn0
  | .fmax f => rUse f (wr .s) (rd .s) (rd .s) fn0
  | .fcmp f => rUse f (wr .p) (rd .s) (rd .s) (· < 5)
  | .cvtif f => rUse f (wr .s) (rd .s) .zero (· < 4)
  | .cvtfi f => rUse f (wr .s) (rd .s) .zero (· < 4)
  | .lds f => iUse f (wr .s) (rd .a) [fu 0 (field 26 26 f.imm.toNat) (.allowed (!(bitOf 26 f.imm.toNat && field 25 24 f.imm.toNat == 3))), immZero f 31 27]
  | .sts f => iUse f (rd .s) (rd .a) [immZero f 31 26]
  | .hld f => iUse f (wr .h) (rd .a) [immZero f 31 24]
  | .hst f => iUse f (rd .h) (rd .a) [immZero f 31 24]
  | .hmov f => rUse f (if f.fn.toNat = 1 then wr .s else wr .h) (if f.fn.toNat = 2 then rd .s else rd .h) .zero (· < 3)
  | .hpin f => rUse f (wr .s) (rd .h) .zero fn0
  | .hunpin f => rUse f .zero (rd .h) .zero fn0
  | .hnull f => rUse f (wr .h) .zero .zero fn0
  | .br f => [tgtUse f, fu 44 f.pg.toNat (rd .p)]
  | .jmp f => [tgtUse f, fu 43 f.ps.toNat .zero, fu 44 f.pg.toNat .zero]
  | .call f => [tgtUse f, fu 44 f.pg.toNat (rd .p), fu 255 63 (wr .s)]
  | .ret f => rUse f .zero (rd .s) .zero fn0
  | .loop f => iUse f (wr .lc) (rd .s) []
  | .lend f => [tgtUse f, fu 43 f.ps.toNat .zero, fu 44 (field 1 0 f.pg.toNat) (rw' .lc), fu 44 (field 3 2 f.pg.toNat) .zero]
  | .halt f => rUse f .zero .zero .zero fn0
  | .trap f => iUse f .zero .zero []
  | .tret f => rUse f .zero .zero .zero fn0
  | .yield f => rUse f .zero .zero .zero fn0
  | .twait f => rUse f .zero (rd .t) .zero fn0
  | .ttest f => rUse f (wr .p) (rd .t) .zero fn0
  | .sleept f => rUse f .zero (rd .t) .zero fn0
  | .tprom f => rUse f (wr .s) (rd .t) .zero fn0
  | .waitl f => rUse f .zero (rd .c) .zero fn0
  | .waitr f => rUse f .zero (rd .c) .zero fn0
  | .getsr f => iUse f (wr .s) .zero [fu 0 (field 7 0 f.imm.toNat) (.allowed (srKnown (field 7 0 f.imm.toNat))), immZero f 31 8]
  | .setsr f => iUse f .zero (rd .s) [fu 0 (field 7 0 f.imm.toNat) (.allowed (srKnown (field 7 0 f.imm.toNat))), immZero f 31 8]
  | .ftset f => iUse f .zero .zero [immZero f 7 6, immZero f 31 10]
  | .ftld f => rUse f (wr .fm) (rd .s) .zero fn0
  | .stepadv f => iUse f .zero .zero [fu 0 f.imm.toNat (.allowed (1 ≤ f.imm.toNat && f.imm.toNat ≤ 65536))]
  | .kest f => rUse f .zero (rd .s) .zero fn0
  | .vadd f => vUse f [0, 1, 2, 3, 4, 5, 6] (vbReg f .v) (rd .v) (wr .v)
  | .vsub f => vUse f [0, 1, 2, 3, 4, 5, 6] (vbReg f .v) (rd .v) (wr .v)
  | .vmul f => vUse f [0, 1, 2, 3, 4, 5, 6] (vbReg f .v) (rd .v) (wr .v)
  | .vfma f => vUse f [0, 3, 4] (vbReg f .v) (rd .v) (rw' .v)
  | .vfms f => vUse f [0, 3, 4] (vbReg f .v) (rd .v) (rw' .v)
  | .vmin f => vUse f [0, 1, 2, 3, 4, 5, 6] (vbReg f .v) (rd .v) (wr .v)
  | .vmax f => vUse f [0, 1, 2, 3, 4, 5, 6] (vbReg f .v) (rd .v) (wr .v)
  | .vabs f => vUse f [0, 1, 3, 4, 5, 6] (vbZero f) (rd .v) (wr .v)
  | .vneg f => vUse f [0, 1, 3, 4, 5, 6] (vbZero f) (rd .v) (wr .v)
  | .vmovi f => vUse f [0, 1, 2, 3, 4, 5, 6] (vbImm f) .zero (wr .v)
  | .vand f => vUse f [0] (vbReg f .v) (rd .v) (wr .v)
  | .vor f => vUse f [0] (vbReg f .v) (rd .v) (wr .v)
  | .vxor f => vUse f [0] (vbReg f .v) (rd .v) (wr .v)
  | .vnot f => vUse f [0] (vbZero f) (rd .v) (wr .v)
  | .vshl f => vUse f [1, 2, 5, 6] (vbReg f .v) (rd .v) (wr .v)
  | .vshr f => vUse f [1, 2, 5, 6] (vbReg f .v) (rd .v) (wr .v)
  | .vsra f => vUse f [1, 2, 5, 6] (vbReg f .v) (rd .v) (wr .v)
  | .vpopc f => vUse f [1, 2, 5, 6] (vbZero f) (rd .v) (wr .v)
  | .vclz f => vUse f [1, 2, 5, 6] (vbZero f) (rd .v) (wr .v)
  | .vsel f => vUse f [0] (vbReg f .v) (rd .v) (wr .v)
  | .vqand f => vUse f [0] (vbReg f .q) (rd .q) (wr .q)
  | .vqor f => vUse f [0] (vbReg f .q) (rd .q) (wr .q)
  | .vqnot f => vUse f [0] (vbZero f) (rd .q) (wr .q)
  | .vcmpEq f => vUse f [0, 1, 2, 3, 4, 5, 6] (vbReg f .v) (rd .v) (wr .q)
  | .vcmpNe f => vUse f [0, 1, 2, 3, 4, 5, 6] (vbReg f .v) (rd .v) (wr .q)
  | .vcmpLt f => vUse f [0, 1, 2, 3, 4, 5, 6] (vbReg f .v) (rd .v) (wr .q)
  | .vcmpLe f => vUse f [0, 1, 2, 3, 4, 5, 6] (vbReg f .v) (rd .v) (wr .q)
  | .vcmpGt f => vUse f [0, 1, 2, 3, 4, 5, 6] (vbReg f .v) (rd .v) (wr .q)
  | .vcmpGe f => vUse f [0, 1, 2, 3, 4, 5, 6] (vbReg f .v) (rd .v) (wr .q)
  | .vexp2 f => vUse f [0] (vbZero f) (rd .v) (wr .v)
  | .vlog2 f => vUse f [0] (vbZero f) (rd .v) (wr .v)
  | .vrcp f => vUse f [0] (vbZero f) (rd .v) (wr .v)
  | .vrsq f => vUse f [0] (vbZero f) (rd .v) (wr .v)
  | .vsqrt f => vUse f [0] (vbZero f) (rd .v) (wr .v)
  | .vcvt f => vUse f [0, 1, 2, 3, 4, 5, 6] (vbConv f cvtPair) (rd .v) (wr .v)
  | .vpack f => vUse f [0, 1, 2, 3, 4, 5] (vbConv f packPair) (rd .v) (wr .v)
  | .vunpk f => vUse f [3, 4, 5, 6, 7] (vbConv f unpkPair) (rd .v) (wr .v)
  | .vld f => vUse f [0] (vbImm f) (rd .a) (wr .v)
  | .vst f => vUse f [0] (vbImm f) (rd .a) (rd .v)
  | .vldx f => vUse f [0] (vbReg f .v) (rd .a) (wr .v)
  | .vstx f => vUse f [0] (vbReg f .v) (rd .a) (rd .v)
  | .vstmb f => vUse f [0] (vbImm f) (rd .a) (rd .q)
  | .vldmb f => vUse f [0] (vbImm f) (rd .a) (wr .q)
  | .vbcast f => vUse f [0] (vbLow f 4 (fun _ => true)) (rd .v) (wr .v)
  | .vextr f => vUse f [3, 4, 5, 6] ([fu 6 (field 1 0 f.vb.toNat) (.allowed (f.ty.toNat == 6 || field 1 0 f.vb.toNat < 2)), fu 6 (field 2 2 f.vb.toNat) (.allowed (!(bitOf 2 f.vb.toNat) || 5 ≤ f.ty.toNat)), fu 6 (field 13 3 f.vb.toNat) .zero]) (rd .v) (wr .v)
  | .vperm f => vUse f [0] (vbReg f .v) (rd .v) (wr .v)
  | .vxcrs f => vUse f [0] (vbLow f 3 (· != 0)) (rd .v) (wr .v)
  | .vradd f => vUse f [0, 1, 2] (vbZero f) (rd .v) (wr .v)
  | .vrmax f => vUse f [0, 1, 2] (vbZero f) (rd .v) (wr .v)
  | .vrmin f => vUse f [0, 1, 2] (vbZero f) (rd .v) (wr .v)
  | .vwstmp f => vUse f [0] (vbZero f) .zero (wr .v)
  | .vwfac f => vUse f [0, 3] (vbLow f 5 (fun _ => true)) (rd .v) (wr .v)
  | .vwmrg f => vUse f [0, 3] (vbLow f 5 (fun _ => true)) (rd .v) (rw' .v) ++ [fu 3 f.qg.toNat .zero, fu 48 f.cm.toNat (.allowed ((List.range 4).all fun j => bitOf (2 * j) f.cm.toNat == bitOf (2 * j + 1) f.cm.toNat))]
  | .vzrd f => vUse f [0] (vbLow f 5 (fun _ => true)) (rd .z) (wr .v)
  | .vzwr f => vUse f [0] (vbLow f 5 (fun _ => true)) (wr .z) (rd .v)
  | .mma f => mUse f (rw' .z) (rd .a) (rd .a)
  | .mmai f => mUse f (rw' .z) (rd .a) (rd .a)
  | .mmas f => mUse f (rw' .z) (rd .a) (rd .a)
  | .mgath f => mUse f .zero (rd .a) (rd .a)
  | .mzero f => mUse f (wr .z) .zero .zero
  | .mzld f => mUse f (wr .z) (rd .a) .zero
  | .mzst f => mUse f (rd .z) (rd .a) .zero
  | .mtrn f => mUse f .zero (rd .a) (rd .a)
  | .cpget f => cUse f (sxU f (rd .s)) (syU f (rd .s)) (rd .a)
  | .cpput f => cUse f (sxU f (rd .s)) (syU f (rd .s)) (rd .a)
  | .cpfill f => cUse f (sxU f (rd .s)) (syU f (rd .s)) (rd .a)
  | .cpstr f => cUse f (sxU f (rd .s)) (syU f (rd .s)) (rd .a)
  | .cptile f => cUse f (sxU f (rd .s)) (syU f (rd .s)) (rd .a)
  | .cppair f => cUse f (sxU f (rd .s)) (syU f (rd .s)) (rd .a)
  | .cpbay f => cUse f (sxU f .zero) (syU f (rd .s)) (rd .a)
  | .nmcmd f => cUse f (sxU f .zero) (syU f .zero) (rd .a)
  | .cpwget f => cUse f (sxU f (rd .s)) (syU f (rd .s)) (rd .a)
  | .cpwput f => cUse f (sxU f (rd .s)) (syU f (rd .s)) (rd .a)
  | .cpwacc f => cUse f (sxU f (rd .s)) (syU f (rd .s)) (rd .a)
  | .hget f => cUse f (sxU f (rd .h)) (syU f (rd .s)) (rd .a)
  | .hput f => cUse f (sxU f (rd .h)) (syU f (rd .s)) (rd .a)
  | .hacc f => cUse f (sxU f (rd .h)) (syU f (rd .s)) (rd .a)
  | .fence f => cUse f [fu 34 (field 4 2 f.sx.toNat) (.allowed (field 4 2 f.sx.toNat < 5)), fu 34 (field 5 5 f.sx.toNat) .zero] (syU f (.allowed true)) .zero
  | .scfence f => cUse f [fu 34 (field 1 0 f.sx.toNat) .zero, fu 34 (field 4 2 f.sx.toNat) (.allowed (field 4 2 f.sx.toNat < 5)), fu 34 (field 5 5 f.sx.toNat) .zero] (syU f .zero) .zero
  | .wcreate f => cUse f (sxU f .zero) (syU f (rd .s)) .zero
  | .wfree f => cUse f (sxU f .zero) (syU f (rd .s)) .zero
  | .wget f => cUse f (sxU f .zero) (syU f (rd .s)) (rd .a)
  | .wput f => cUse f (sxU f .zero) (syU f (rd .s)) (rd .a)
  | .wacc f => cUse f (sxU f .zero) (syU f (rd .s)) (rd .a)
  | .wfaa f => cUse f (sxU f .zero) (syU f (rd .s)) (rd .a)
  | .wcas f => cUse f (sxU f .zero) (syU f (rd .s)) (rd .a)
  | .wswap f => cUse f (sxU f .zero) (syU f (rd .s)) (rd .a)
  | .wfence f => cUse f (sxU f .zero) (syU f (rd .s)) .zero
  | .wpost f => cUse f (sxU f .zero) (syU f (rd .s)) .zero
  | .wstart f => cUse f (sxU f .zero) (syU f (rd .s)) .zero
  | .wcmpl f => cUse f (sxU f .zero) (syU f (rd .s)) .zero
  | .wwait f => cUse f (sxU f .zero) (syU f (rd .s)) .zero
  | .wlock f => cUse f (sxU f .zero) (syU f (rd .s)) .zero
  | .wunlk f => cUse f (sxU f .zero) (syU f (rd .s)) .zero
  | .cntinc f => cUse f (sxU f (rd .s)) (syU f (rd .s)) .zero
  | .cntrd f => cUse f (sxU f (rd .s)) (syU f .zero) (rd .a)
  | .ctrig f => cUse f (sxU f .zero) (syU f (rd .s)) .zero
  | .ctdis f => cUse f (sxU f (rd .s)) (syU f .zero) .zero
  | .barinit f => cUse f (sxU f (rd .s)) (syU f .zero) (rd .a)
  | .bararr f => cUse f [fu 34 (field 3 0 f.sx.toNat) (.allowed (field 3 0 f.sx.toNat != 0)), fu 34 (field 5 4 f.sx.toNat) .zero] (syU f (wr .p)) (rd .a)
  | .barwait f => cUse f [fu 34 (field 3 0 f.sx.toNat) (.allowed true), fu 34 (field 5 4 f.sx.toNat) .zero] (syU f (rd .s)) (rd .a)
  | .bayadd f => cUse f (sxU f .zero) (syU f (rd .s)) (rd .a)
  | .baycas f => cUse f (sxU f .zero) (syU f (rd .s)) (rd .a)
  | .coll f => cUse f (sxU f .zero) (syU f .zero) (rd .a)
  | .collq f => cUse f (sxU f .zero) (syU f .zero) (rd .a)
  | .send f => kUse f (rd .v)
  | .recv f => kUse f (wr .v)
  | .recvadd f => kUse f (rw' .v)
  | .recvmax f => kUse f (rw' .v)
  | .illegalEncoding _ => []
  | .segmentEnd => []
  | .expandBundle => []
  | .sResultLand => []
  | .vResultLand => []
  | .mOpStart => []
  | .mResultLand => []
  | .cOpAccept _ => []
  | .cOpLocalComplete _ => []
  | .stagedDrain _ => []
  | .nearMemoryExecute _ => []
  | .fenceComplete _ => []
  | .wdogExpiry => []
  | .yardLookupReply _ => []
  | .coreHalted => []
  | .kernelRetirement _ => []
  | .remoteAccessArrival _ => []
  | .targetAwayRetry _ => []
  | .remoteCompletion _ => []
  | .wfenceArrival _ => []
  | .postArrival _ => []
  | .completionNoticeArrival _ => []
  | .lockRequestArrival _ => []
  | .unlockArrival _ => []
  | .lockRetry _ => []
  | .lockBreak _ => []
  | .leaseExpiry _ => []
  | .counterIncrement _ => []
  | .triggerFire _ _ => []
  | .queueTakeGrant _ _ _ => []
  | .bayAtomicOp _ _ => []
  | .barwaitTimeout _ => []
  | .circuitEntryArrival _ => []
  | .walkerEmit => []
  | .doneNoticeArrival _ => []
  | .collFinishedArrival _ => []
  | .collAbortArrival _ => []
  | .collDeadline _ => []
  | .launch _ => []
  | .qcreate _ => []
  | .qfree _ => []
  | .kill _ => []
  | .mapPages _ => []
  | .inval _ => []
  | .invalComplete _ => []
  | .faultreply _ => []
  | .migrate _ => []
  | .migrateComplete _ => []
  | .classtab _ => []
  | .yardreg _ => []
  | .relay _ => []
  | .relayBatchTurn _ => []
  | .flipFenceAck _ _ _ => []
  | .relayCopy _ => []
  | .relayFinish _ => []
  | .epoch _ => []
  | .epochAdvance _ => []
  | .rates _ => []
  | .seal _ => []
  | .sealComplete _ => []
  | .readRecord _ => []
  | .stripeset _ => []
  | .submissionQueueTailWrite _ _ _ _ => []
  | .journalReadIndexAdvance _ => []
  | .contextCreate _ _ => []
  | .contextDestroy _ => []
  | .kernelBind _ => []
  | .kernelStart _ => []
  | .drainHorizonExpiry _ => []
  | .checkpointBoundExpiry _ => []
  | .checkpointSave _ _ => []
  | .resume _ => []
  | .agingTick _ => []
  | .sweepPassStart _ _ => []
  | .sweepLineStep _ _ => []
  | .streamedBundle _ _ _ => []
  | .powerOnReset _ => []
  | .selfTestEnd _ => []
  | .memoryWipeEnd => []
  | .linkTrainingEnd => []
  | .lifecycleRequest _ => []
  | .attestationRequest _ => []
  | .firmwareUpdate _ _ _ => []
  | .telemetryRequest _ => []
  | .unitFence _ => []
  | .sramSoftError _ => []
  | .sramUncorrectableError _ => []
  | .hbmUncorrectableError _ => []
  | .linkRetrainTimeout _ => []
  | .thermalWarning => []
  | .thermalTrip _ => []
  | .sleepEnd => []
  | .linkRetrainStart _ => []

/-- The slot an operation stands in; header bits and events have the header's (R44). -/
def slotOf : Instr → Slot
  | .nop sl => sl
  | .brace => .header
  | .tmark => .header
  | .add _ => .s
  | .sub _ => .s
  | .mul _ => .s
  | .mulh _ => .s
  | .div _ => .s
  | .rem _ => .s
  | .and _ => .s
  | .or _ => .s
  | .xor _ => .s
  | .andn _ => .s
  | .shl _ => .s
  | .shr _ => .s
  | .sra _ => .s
  | .rot _ => .s
  | .min _ => .s
  | .max _ => .s
  | .clz _ => .s
  | .popc _ => .s
  | .sel _ => .s
  | .cmp _ => .s
  | .awr _ => .s
  | .ard _ => .s
  | .ainc _ => .s
  | .addI _ => .s
  | .subI _ => .s
  | .mulI _ => .s
  | .mulhI _ => .s
  | .divI _ => .s
  | .remI _ => .s
  | .andI _ => .s
  | .orI _ => .s
  | .xorI _ => .s
  | .andnI _ => .s
  | .shlI _ => .s
  | .shrI _ => .s
  | .sraI _ => .s
  | .rotI _ => .s
  | .minI _ => .s
  | .maxI _ => .s
  | .aincI _ => .s
  | .movi _ => .s
  | .movhi _ => .s
  | .fadd _ => .s
  | .fmul _ => .s
  | .ffma _ => .s
  | .fmin _ => .s
  | .fmax _ => .s
  | .fcmp _ => .s
  | .cvtif _ => .s
  | .cvtfi _ => .s
  | .lds _ => .s
  | .sts _ => .s
  | .hld _ => .s
  | .hst _ => .s
  | .hmov _ => .s
  | .hpin _ => .s
  | .hunpin _ => .s
  | .hnull _ => .s
  | .br _ => .s
  | .jmp _ => .s
  | .call _ => .s
  | .ret _ => .s
  | .loop _ => .s
  | .lend _ => .s
  | .halt _ => .s
  | .trap _ => .s
  | .tret _ => .s
  | .yield _ => .s
  | .twait _ => .s
  | .ttest _ => .s
  | .sleept _ => .s
  | .tprom _ => .s
  | .waitl _ => .s
  | .waitr _ => .s
  | .getsr _ => .s
  | .setsr _ => .s
  | .ftset _ => .s
  | .ftld _ => .s
  | .stepadv _ => .s
  | .kest _ => .s
  | .vadd f => match f.unit with | .va => .va | .vb => .vb
  | .vsub f => match f.unit with | .va => .va | .vb => .vb
  | .vmul f => match f.unit with | .va => .va | .vb => .vb
  | .vfma f => match f.unit with | .va => .va | .vb => .vb
  | .vfms f => match f.unit with | .va => .va | .vb => .vb
  | .vmin f => match f.unit with | .va => .va | .vb => .vb
  | .vmax f => match f.unit with | .va => .va | .vb => .vb
  | .vabs f => match f.unit with | .va => .va | .vb => .vb
  | .vneg f => match f.unit with | .va => .va | .vb => .vb
  | .vmovi f => match f.unit with | .va => .va | .vb => .vb
  | .vand f => match f.unit with | .va => .va | .vb => .vb
  | .vor f => match f.unit with | .va => .va | .vb => .vb
  | .vxor f => match f.unit with | .va => .va | .vb => .vb
  | .vnot f => match f.unit with | .va => .va | .vb => .vb
  | .vshl f => match f.unit with | .va => .va | .vb => .vb
  | .vshr f => match f.unit with | .va => .va | .vb => .vb
  | .vsra f => match f.unit with | .va => .va | .vb => .vb
  | .vpopc f => match f.unit with | .va => .va | .vb => .vb
  | .vclz f => match f.unit with | .va => .va | .vb => .vb
  | .vsel f => match f.unit with | .va => .va | .vb => .vb
  | .vqand f => match f.unit with | .va => .va | .vb => .vb
  | .vqor f => match f.unit with | .va => .va | .vb => .vb
  | .vqnot f => match f.unit with | .va => .va | .vb => .vb
  | .vcmpEq f => match f.unit with | .va => .va | .vb => .vb
  | .vcmpNe f => match f.unit with | .va => .va | .vb => .vb
  | .vcmpLt f => match f.unit with | .va => .va | .vb => .vb
  | .vcmpLe f => match f.unit with | .va => .va | .vb => .vb
  | .vcmpGt f => match f.unit with | .va => .va | .vb => .vb
  | .vcmpGe f => match f.unit with | .va => .va | .vb => .vb
  | .vexp2 f => match f.unit with | .va => .va | .vb => .vb
  | .vlog2 f => match f.unit with | .va => .va | .vb => .vb
  | .vrcp f => match f.unit with | .va => .va | .vb => .vb
  | .vrsq f => match f.unit with | .va => .va | .vb => .vb
  | .vsqrt f => match f.unit with | .va => .va | .vb => .vb
  | .vcvt f => match f.unit with | .va => .va | .vb => .vb
  | .vpack f => match f.unit with | .va => .va | .vb => .vb
  | .vunpk f => match f.unit with | .va => .va | .vb => .vb
  | .vld f => match f.unit with | .va => .va | .vb => .vb
  | .vst f => match f.unit with | .va => .va | .vb => .vb
  | .vldx f => match f.unit with | .va => .va | .vb => .vb
  | .vstx f => match f.unit with | .va => .va | .vb => .vb
  | .vstmb f => match f.unit with | .va => .va | .vb => .vb
  | .vldmb f => match f.unit with | .va => .va | .vb => .vb
  | .vbcast f => match f.unit with | .va => .va | .vb => .vb
  | .vextr f => match f.unit with | .va => .va | .vb => .vb
  | .vperm f => match f.unit with | .va => .va | .vb => .vb
  | .vxcrs f => match f.unit with | .va => .va | .vb => .vb
  | .vradd f => match f.unit with | .va => .va | .vb => .vb
  | .vrmax f => match f.unit with | .va => .va | .vb => .vb
  | .vrmin f => match f.unit with | .va => .va | .vb => .vb
  | .vwstmp f => match f.unit with | .va => .va | .vb => .vb
  | .vwfac f => match f.unit with | .va => .va | .vb => .vb
  | .vwmrg f => match f.unit with | .va => .va | .vb => .vb
  | .vzrd f => match f.unit with | .va => .va | .vb => .vb
  | .vzwr f => match f.unit with | .va => .va | .vb => .vb
  | .mma _ => .m
  | .mmai _ => .m
  | .mmas _ => .m
  | .mgath _ => .m
  | .mzero _ => .m
  | .mzld _ => .m
  | .mzst _ => .m
  | .mtrn _ => .m
  | .cpget f => match f.unit with | .c0 => .c0 | .c1 => .c1
  | .cpput f => match f.unit with | .c0 => .c0 | .c1 => .c1
  | .cpfill f => match f.unit with | .c0 => .c0 | .c1 => .c1
  | .cpstr f => match f.unit with | .c0 => .c0 | .c1 => .c1
  | .cptile f => match f.unit with | .c0 => .c0 | .c1 => .c1
  | .cppair f => match f.unit with | .c0 => .c0 | .c1 => .c1
  | .cpbay f => match f.unit with | .c0 => .c0 | .c1 => .c1
  | .nmcmd f => match f.unit with | .c0 => .c0 | .c1 => .c1
  | .cpwget f => match f.unit with | .c0 => .c0 | .c1 => .c1
  | .cpwput f => match f.unit with | .c0 => .c0 | .c1 => .c1
  | .cpwacc f => match f.unit with | .c0 => .c0 | .c1 => .c1
  | .hget f => match f.unit with | .c0 => .c0 | .c1 => .c1
  | .hput f => match f.unit with | .c0 => .c0 | .c1 => .c1
  | .hacc f => match f.unit with | .c0 => .c0 | .c1 => .c1
  | .fence f => match f.unit with | .c0 => .c0 | .c1 => .c1
  | .scfence f => match f.unit with | .c0 => .c0 | .c1 => .c1
  | .wcreate f => match f.unit with | .c0 => .c0 | .c1 => .c1
  | .wfree f => match f.unit with | .c0 => .c0 | .c1 => .c1
  | .wget f => match f.unit with | .c0 => .c0 | .c1 => .c1
  | .wput f => match f.unit with | .c0 => .c0 | .c1 => .c1
  | .wacc f => match f.unit with | .c0 => .c0 | .c1 => .c1
  | .wfaa f => match f.unit with | .c0 => .c0 | .c1 => .c1
  | .wcas f => match f.unit with | .c0 => .c0 | .c1 => .c1
  | .wswap f => match f.unit with | .c0 => .c0 | .c1 => .c1
  | .wfence f => match f.unit with | .c0 => .c0 | .c1 => .c1
  | .wpost f => match f.unit with | .c0 => .c0 | .c1 => .c1
  | .wstart f => match f.unit with | .c0 => .c0 | .c1 => .c1
  | .wcmpl f => match f.unit with | .c0 => .c0 | .c1 => .c1
  | .wwait f => match f.unit with | .c0 => .c0 | .c1 => .c1
  | .wlock f => match f.unit with | .c0 => .c0 | .c1 => .c1
  | .wunlk f => match f.unit with | .c0 => .c0 | .c1 => .c1
  | .cntinc f => match f.unit with | .c0 => .c0 | .c1 => .c1
  | .cntrd f => match f.unit with | .c0 => .c0 | .c1 => .c1
  | .ctrig f => match f.unit with | .c0 => .c0 | .c1 => .c1
  | .ctdis f => match f.unit with | .c0 => .c0 | .c1 => .c1
  | .barinit f => match f.unit with | .c0 => .c0 | .c1 => .c1
  | .bararr f => match f.unit with | .c0 => .c0 | .c1 => .c1
  | .barwait f => match f.unit with | .c0 => .c0 | .c1 => .c1
  | .bayadd f => match f.unit with | .c0 => .c0 | .c1 => .c1
  | .baycas f => match f.unit with | .c0 => .c0 | .c1 => .c1
  | .coll f => match f.unit with | .c0 => .c0 | .c1 => .c1
  | .collq f => match f.unit with | .c0 => .c0 | .c1 => .c1
  | .send _ => .k
  | .recv _ => .k
  | .recvadd _ => .k
  | .recvmax _ => .k
  | .illegalEncoding _ => .header
  | .segmentEnd => .header
  | .expandBundle => .header
  | .sResultLand => .header
  | .vResultLand => .header
  | .mOpStart => .header
  | .mResultLand => .header
  | .cOpAccept _ => .header
  | .cOpLocalComplete _ => .header
  | .stagedDrain _ => .header
  | .nearMemoryExecute _ => .header
  | .fenceComplete _ => .header
  | .wdogExpiry => .header
  | .yardLookupReply _ => .header
  | .coreHalted => .header
  | .kernelRetirement _ => .header
  | .remoteAccessArrival _ => .header
  | .targetAwayRetry _ => .header
  | .remoteCompletion _ => .header
  | .wfenceArrival _ => .header
  | .postArrival _ => .header
  | .completionNoticeArrival _ => .header
  | .lockRequestArrival _ => .header
  | .unlockArrival _ => .header
  | .lockRetry _ => .header
  | .lockBreak _ => .header
  | .leaseExpiry _ => .header
  | .counterIncrement _ => .header
  | .triggerFire _ _ => .header
  | .queueTakeGrant _ _ _ => .header
  | .bayAtomicOp _ _ => .header
  | .barwaitTimeout _ => .header
  | .circuitEntryArrival _ => .header
  | .walkerEmit => .header
  | .doneNoticeArrival _ => .header
  | .collFinishedArrival _ => .header
  | .collAbortArrival _ => .header
  | .collDeadline _ => .header
  | .launch _ => .header
  | .qcreate _ => .header
  | .qfree _ => .header
  | .kill _ => .header
  | .mapPages _ => .header
  | .inval _ => .header
  | .invalComplete _ => .header
  | .faultreply _ => .header
  | .migrate _ => .header
  | .migrateComplete _ => .header
  | .classtab _ => .header
  | .yardreg _ => .header
  | .relay _ => .header
  | .relayBatchTurn _ => .header
  | .flipFenceAck _ _ _ => .header
  | .relayCopy _ => .header
  | .relayFinish _ => .header
  | .epoch _ => .header
  | .epochAdvance _ => .header
  | .rates _ => .header
  | .seal _ => .header
  | .sealComplete _ => .header
  | .readRecord _ => .header
  | .stripeset _ => .header
  | .submissionQueueTailWrite _ _ _ _ => .header
  | .journalReadIndexAdvance _ => .header
  | .contextCreate _ _ => .header
  | .contextDestroy _ => .header
  | .kernelBind _ => .header
  | .kernelStart _ => .header
  | .drainHorizonExpiry _ => .header
  | .checkpointBoundExpiry _ => .header
  | .checkpointSave _ _ => .header
  | .resume _ => .header
  | .agingTick _ => .header
  | .sweepPassStart _ _ => .header
  | .sweepLineStep _ _ => .header
  | .streamedBundle _ _ _ => .header
  | .powerOnReset _ => .header
  | .selfTestEnd _ => .header
  | .memoryWipeEnd => .header
  | .linkTrainingEnd => .header
  | .lifecycleRequest _ => .header
  | .attestationRequest _ => .header
  | .firmwareUpdate _ _ _ => .header
  | .telemetryRequest _ => .header
  | .unitFence _ => .header
  | .sramSoftError _ => .header
  | .sramUncorrectableError _ => .header
  | .hbmUncorrectableError _ => .header
  | .linkRetrainTimeout _ => .header
  | .thermalWarning => .header
  | .thermalTrip _ => .header
  | .sleepEnd => .header
  | .linkRetrainStart _ => .header

/-- Reason 0x08: the position of the lowest field whose value the tables do not allow (R70). [DEDUCED: log 19] -/
def badField (i : Instr) : Option Nat :=
  ((fieldUses i).filter FieldUse.bad).foldl (fun m f => match m with
    | none => some f.pos
    | some p => some (min p f.pos)) none

/-- Reason 0x04: the position of the lowest field that names a `v` or `z` register the partition word does not provide,
with RF and ACC the word's fields (R15, R19). -/
def outsidePartition (rf acc : Nat) (i : Instr) : Option Nat :=
  ((fieldUses i).filter fun f => match f.use with
    | .reg .v _ _ => decide (rf * 512 ≤ f.val)
    | .reg .z _ _ => decide (acc * 16 ≤ f.val)
    | _ => false).foldl (fun m f => match m with
    | none => some f.pos
    | some p => some (min p f.pos)) none

/-- The registers an operation reads, its guard among them. -/
def readsOf (i : Instr) : List RegName :=
  (fieldUses i).filterMap fun f => match f.use with
    | .reg fam true _ => some ⟨fam, f.val⟩
    | _ => none

/-- The registers an operation writes. -/
def writesOf (i : Instr) : List RegName :=
  (fieldUses i).filterMap fun f => match f.use with
    | .reg fam _ true => some ⟨fam, f.val⟩
    | _ => none

/-- A write to s0, p0 or q0 is ignored and never conflicts (R61). -/
def RegName.ignored (r : RegName) : Bool := r.idx == 0 && (r.fam == .s || r.fam == .p || r.fam == .q)

/-- The targets of R61 that an operation writes, with the position of the field that names each. -/
def targetsOf (i : Instr) : List (Nat × RegName) :=
  (fieldUses i).filterMap fun f => match f.use with
    | .reg fam _ true => if (RegName.mk fam f.val).ignored then none else some (f.pos, ⟨fam, f.val⟩)
    | _ => none

end Sys2Proof.Machine
end

