-- ==== Sys2Proof/Decode.lean ====
section
/-! DEFINITION. The decoder and the encoder of the canonical bundle (R44 to R62), the order of its checks (R71), and the
expander's reading of stored code (R63 to R66). The decoder is total: every pattern is a bundle or a `Reject` by name. -/

namespace Sys2Proof

open Sys2Proof.Machine

/-- An S-slot opcode selects its form (R48). -/
inductive SCtor where
  | r (mk : RForm → Instr)
  | i (mk : IForm → Instr)
  | b (mk : BForm → Instr)

/-- Part 0 of `sOps`. -/
def sOps0 : List (Nat × SCtor) := [
   (0x01, SCtor.r Instr.add), (0x02, SCtor.r Instr.sub), (0x03, SCtor.r Instr.mul), (0x04, SCtor.r Instr.mulh),
   (0x05, SCtor.r Instr.div), (0x06, SCtor.r Instr.rem), (0x07, SCtor.r Instr.and), (0x08, SCtor.r Instr.or),
   (0x09, SCtor.r Instr.xor), (0x0A, SCtor.r Instr.andn), (0x0B, SCtor.r Instr.shl), (0x0C, SCtor.r Instr.shr),
   (0x0D, SCtor.r Instr.sra), (0x0E, SCtor.r Instr.rot), (0x0F, SCtor.r Instr.min), (0x10, SCtor.r Instr.max),
   (0x11, SCtor.r Instr.clz), (0x12, SCtor.r Instr.popc), (0x13, SCtor.r Instr.sel), (0x14, SCtor.r Instr.cmp),
   (0x15, SCtor.r Instr.awr), (0x16, SCtor.r Instr.ard), (0x17, SCtor.r Instr.ainc), (0x21, SCtor.i Instr.addI)]

/-- Part 1 of `sOps`. -/
def sOps1 : List (Nat × SCtor) := [
   (0x22, SCtor.i Instr.subI), (0x23, SCtor.i Instr.mulI), (0x24, SCtor.i Instr.mulhI), (0x25, SCtor.i Instr.divI),
   (0x26, SCtor.i Instr.remI), (0x27, SCtor.i Instr.andI), (0x28, SCtor.i Instr.orI), (0x29, SCtor.i Instr.xorI),
   (0x2A, SCtor.i Instr.andnI), (0x2B, SCtor.i Instr.shlI), (0x2C, SCtor.i Instr.shrI), (0x2D, SCtor.i Instr.sraI),
   (0x2E, SCtor.i Instr.rotI), (0x2F, SCtor.i Instr.minI), (0x30, SCtor.i Instr.maxI), (0x37, SCtor.i Instr.aincI),
   (0x3E, SCtor.i Instr.movi), (0x3F, SCtor.i Instr.movhi), (0x40, SCtor.r Instr.fadd), (0x41, SCtor.r Instr.fmul),
   (0x42, SCtor.r Instr.ffma), (0x43, SCtor.r Instr.fmin), (0x44, SCtor.r Instr.fmax), (0x45, SCtor.r Instr.fcmp)]

/-- Part 2 of `sOps`. -/
def sOps2 : List (Nat × SCtor) := [
   (0x46, SCtor.r Instr.cvtif), (0x47, SCtor.r Instr.cvtfi), (0x50, SCtor.i Instr.lds), (0x51, SCtor.i Instr.sts),
   (0x52, SCtor.i Instr.hld), (0x53, SCtor.i Instr.hst), (0x54, SCtor.r Instr.hmov), (0x55, SCtor.r Instr.hpin),
   (0x56, SCtor.r Instr.hunpin), (0x57, SCtor.r Instr.hnull), (0x60, SCtor.b Instr.br), (0x61, SCtor.b Instr.jmp),
   (0x62, SCtor.b Instr.call), (0x63, SCtor.r Instr.ret), (0x64, SCtor.i Instr.loop), (0x65, SCtor.b Instr.lend),
   (0x66, SCtor.r Instr.halt), (0x67, SCtor.i Instr.trap), (0x68, SCtor.r Instr.tret), (0x69, SCtor.r Instr.yield),
   (0x80, SCtor.r Instr.twait), (0x81, SCtor.r Instr.ttest), (0x82, SCtor.r Instr.sleept), (0x83, SCtor.r Instr.tprom)]

/-- Part 3 of `sOps`. -/
def sOps3 : List (Nat × SCtor) := [
   (0x84, SCtor.r Instr.waitl), (0x85, SCtor.r Instr.waitr), (0x90, SCtor.i Instr.getsr), (0x91, SCtor.i Instr.setsr),
   (0x92, SCtor.i Instr.ftset), (0x93, SCtor.r Instr.ftld), (0x94, SCtor.i Instr.stepadv), (0x95, SCtor.r Instr.kest)]

/-- The S grid of R54. -/
def sOps : List (Nat × SCtor) := sOps0 ++ sOps1 ++ sOps2 ++ sOps3

/-- Part 0 of `vOps`. -/
def vOps0 : List (Nat × (VForm → Instr)) := [
   (0x01, Instr.vadd), (0x02, Instr.vsub), (0x03, Instr.vmul), (0x04, Instr.vfma),
   (0x05, Instr.vfms), (0x06, Instr.vmin), (0x07, Instr.vmax), (0x08, Instr.vabs),
   (0x09, Instr.vneg), (0x0A, Instr.vmovi), (0x40, Instr.vand), (0x41, Instr.vor),
   (0x42, Instr.vxor), (0x43, Instr.vnot), (0x44, Instr.vshl), (0x45, Instr.vshr),
   (0x46, Instr.vsra), (0x47, Instr.vpopc), (0x48, Instr.vclz), (0x49, Instr.vsel),
   (0x4A, Instr.vqand), (0x4B, Instr.vqor), (0x4C, Instr.vqnot), (0x50, Instr.vcmpEq)]

/-- Part 1 of `vOps`. -/
def vOps1 : List (Nat × (VForm → Instr)) := [
   (0x51, Instr.vcmpNe), (0x52, Instr.vcmpLt), (0x53, Instr.vcmpLe), (0x54, Instr.vcmpGt),
   (0x55, Instr.vcmpGe), (0x60, Instr.vexp2), (0x61, Instr.vlog2), (0x62, Instr.vrcp),
   (0x63, Instr.vrsq), (0x64, Instr.vsqrt), (0x70, Instr.vcvt), (0x71, Instr.vpack),
   (0x72, Instr.vunpk), (0x80, Instr.vld), (0x81, Instr.vst), (0x82, Instr.vldx),
   (0x83, Instr.vstx), (0x84, Instr.vstmb), (0x85, Instr.vldmb), (0x86, Instr.vbcast),
   (0x87, Instr.vextr), (0xA0, Instr.vperm), (0xA1, Instr.vxcrs), (0xA2, Instr.vradd)]

/-- Part 2 of `vOps`. -/
def vOps2 : List (Nat × (VForm → Instr)) := [
   (0xA3, Instr.vrmax), (0xA4, Instr.vrmin), (0xB0, Instr.vwfac), (0xB1, Instr.vwmrg),
   (0xB2, Instr.vwstmp), (0xB8, Instr.vzrd), (0xB9, Instr.vzwr)]

/-- The V grid of R54. -/
def vOps : List (Nat × (VForm → Instr)) := vOps0 ++ vOps1 ++ vOps2

/-- The M grid of R54. -/
def mOps : List (Nat × (MForm → Instr)) := [
   (0x01, Instr.mma), (0x02, Instr.mmai), (0x03, Instr.mmas), (0x04, Instr.mgath),
   (0x05, Instr.mzero), (0x06, Instr.mzld), (0x07, Instr.mzst), (0x08, Instr.mtrn)]

/-- Part 0 of `cOps`. -/
def cOps0 : List (Nat × (CForm → Instr)) := [
   (0x01, Instr.cpget), (0x02, Instr.cpput), (0x03, Instr.cpstr), (0x04, Instr.cptile),
   (0x05, Instr.cppair), (0x06, Instr.cpbay), (0x07, Instr.cpfill), (0x20, Instr.nmcmd),
   (0x21, Instr.cpwget), (0x22, Instr.cpwput), (0x23, Instr.cpwacc), (0x30, Instr.hget),
   (0x31, Instr.hput), (0x32, Instr.hacc), (0x40, Instr.wcreate), (0x41, Instr.wfree),
   (0x42, Instr.wget), (0x43, Instr.wput), (0x44, Instr.wacc), (0x45, Instr.wfence),
   (0x46, Instr.wpost), (0x47, Instr.wstart), (0x48, Instr.wcmpl), (0x49, Instr.wwait)]

/-- Part 1 of `cOps`. -/
def cOps1 : List (Nat × (CForm → Instr)) := [
   (0x4A, Instr.wlock), (0x4B, Instr.wunlk), (0x60, Instr.wfaa), (0x61, Instr.wcas),
   (0x62, Instr.wswap), (0x63, Instr.cntinc), (0x64, Instr.cntrd), (0x65, Instr.ctrig),
   (0x66, Instr.ctdis), (0x70, Instr.barinit), (0x71, Instr.bararr), (0x72, Instr.barwait),
   (0x73, Instr.bayadd), (0x74, Instr.baycas), (0x78, Instr.fence), (0x79, Instr.scfence),
   (0x80, Instr.coll), (0x81, Instr.collq)]

/-- The C grid of R54. -/
def cOps : List (Nat × (CForm → Instr)) := cOps0 ++ cOps1

/-- The K grid of R54. -/
def kOps : List (Nat × (KForm → Instr)) := [
   (0x01, Instr.send), (0x02, Instr.recv), (0x03, Instr.recvadd), (0x04, Instr.recvmax)]

/-- The row of an opcode in a grid; an opcode without a row is unassigned. -/
def opRow {α : Type} (op : Nat) : List (Nat × α) → Option α
  | [] => none
  | (k, a) :: rest => if k = op then some a else opRow op rest

/-- Where a slot begins in the bundle, and how wide it is (R44). -/
def slotBase : Slot → Nat
  | .header => 0 | .s => 8 | .va => 64 | .vb => 128 | .m => 192 | .c0 => 240 | .c1 => 288 | .k => 336

/-- Width of a slot (R44). -/
def slotWidth : Slot → Nat
  | .header => 8 | .s => 56 | .va => 64 | .vb => 64 | .m => 48 | .c0 => 48 | .c1 => 48 | .k => 48

/-- The slots in bundle order (R44, R71). -/
def slotOrder : List Slot := [.header, .s, .va, .vb, .m, .c0, .c1, .k]

/-- The bits of one slot of a bundle. -/
def slotBits (sl : Slot) (b : BitVec 384) : Nat := (b.toNat >>> slotBase sl) % 2 ^ slotWidth sl

/-- The R form of a 56-bit slot (R48). -/
def RForm.ofBits (w : Nat) : RForm :=
  ⟨.ofNat 6 (field 47 42 w), .ofNat 6 (field 41 36 w), .ofNat 6 (field 35 30 w), .ofNat 4 (field 29 26 w),
   .ofNat 4 (field 25 22 w)⟩

/-- The I form of a 56-bit slot (R48). -/
def IForm.ofBits (w : Nat) : IForm :=
  ⟨.ofNat 6 (field 47 42 w), .ofNat 6 (field 41 36 w), .ofNat 4 (field 35 32 w), .ofNat 32 (field 31 0 w)⟩

/-- The B form of a 56-bit slot (R48). -/
def BForm.ofBits (w : Nat) : BForm := ⟨.ofNat 4 (field 47 44 w), bitOf 43 w, .ofNat 43 (field 42 0 w)⟩

/-- A 64-bit vector slot (R49). -/
def VForm.ofBits (u : VUnit) (w : Nat) : VForm :=
  ⟨u, .ofNat 8 (field 55 48 w), .ofNat 14 (field 47 34 w), .ofNat 14 (field 33 20 w), .ofNat 14 (field 19 6 w),
   .ofNat 3 (field 5 3 w), .ofNat 3 (field 2 0 w)⟩

/-- A 48-bit matrix slot (R50). -/
def MForm.ofBits (w : Nat) : MForm :=
  ⟨.ofNat 8 (field 39 32 w), .ofNat 4 (field 31 28 w), .ofNat 4 (field 27 24 w), .ofNat 6 (field 23 18 w),
   .ofNat 6 (field 17 12 w), .ofNat 6 (field 11 6 w), .ofNat 6 (field 5 0 w)⟩

/-- A 48-bit copy slot (R51). -/
def CForm.ofBits (u : CUnit) (w : Nat) : CForm :=
  ⟨u, .ofNat 6 (field 39 34 w), .ofNat 6 (field 33 28 w), .ofNat 4 (field 27 24 w), .ofNat 6 (field 23 18 w),
   .ofNat 6 (field 17 12 w), .ofNat 6 (field 11 6 w), .ofNat 6 (field 5 0 w)⟩

/-- A 48-bit communication slot (R52). -/
def KForm.ofBits (w : Nat) : KForm :=
  ⟨.ofNat 8 (field 39 32 w), .ofNat 14 (field 31 18 w), .ofNat 8 (field 17 10 w), .ofNat 4 (field 9 6 w)⟩

/-- The first field of a layout, from the low end, that is not zero: position and value of each field in turn. -/
def lowestNonzero : List (Nat × Nat) → Option Nat
  | [] => none
  | (p, v) :: rest => if v = 0 then lowestNonzero rest else some p

/-- The fields of a no-op slot below its opcode, as (low bit, high bit). An S-slot no-op is laid out in the R form. -/
def nopLayout : Slot → List (Nat × Nat)
  | .header => []
  | .s => [(0, 21), (22, 25), (26, 29), (30, 35), (36, 41), (42, 47)]
  | .va | .vb => [(0, 2), (3, 5), (6, 19), (20, 33), (34, 47), (48, 55)]
  | .m => [(0, 5), (6, 11), (12, 17), (18, 23), (24, 27), (28, 31), (32, 39)]
  | .c0 | .c1 => [(0, 5), (6, 11), (12, 17), (18, 23), (24, 27), (28, 33), (34, 39)]
  | .k => [(0, 5), (6, 9), (10, 17), (18, 31), (32, 39)]

/-- Every field of a no-op must be zero (R46), else reason 0x02. [DEDUCED: log 18] -/
def decodeNop (sl : Slot) (w : Nat) : Except Reject Instr :=
  match lowestNonzero ((nopLayout sl).map fun p => (p.1, field p.2 p.1 w)) with
  | none => .ok (.nop sl)
  | some p => .error ⟨0x02, p, sl⟩

/-- COLL and COLLQ are C1-only (R54). -/
def c1Only : Instr → Bool
  | .coll _ | .collq _ => true
  | _ => false

/-- The checks of a slot after its opcode: 0x02, then 0x08 (R71). -/
def checkFields (sl : Slot) (reserved : Nat) (i : Instr) : Except Reject Instr :=
  if reserved ≠ 0 then .error ⟨0x02, 0, sl⟩
  else match badField i with
    | some p => .error ⟨0x08, p, sl⟩
    | none => .ok i

/-- The S slot (R48, R54, R55). -/
def decodeS (w : Nat) : Except Reject Instr :=
  if field 55 48 w = 0 then decodeNop .s w
  else match opRow (field 55 48 w) sOps with
    | none => .error ⟨0x01, 48, .s⟩
    | some (.r mk) => checkFields .s (field 21 0 w) (mk (RForm.ofBits w))
    | some (.i mk) => checkFields .s 0 (mk (IForm.ofBits w))
    | some (.b mk) => checkFields .s 0 (mk (BForm.ofBits w))

/-- A V slot (R49, R54, R56, R57). -/
def decodeV (u : VUnit) (w : Nat) : Except Reject Instr :=
  let sl := match u with | .va => Slot.va | .vb => Slot.vb
  if field 63 56 w = 0 then decodeNop sl w
  else match opRow (field 63 56 w) vOps with
    | none => .error ⟨0x01, 56, sl⟩
    | some mk => checkFields sl 0 (mk (VForm.ofBits u w))

/-- The M slot (R50, R54, R58). -/
def decodeM (w : Nat) : Except Reject Instr :=
  if field 47 40 w = 0 then decodeNop .m w
  else match opRow (field 47 40 w) mOps with
    | none => .error ⟨0x01, 40, .m⟩
    | some mk => checkFields .m 0 (mk (MForm.ofBits w))

/-- A C slot (R51, R54, R59). -/
def decodeC (u : CUnit) (w : Nat) : Except Reject Instr :=
  let sl := match u with | .c0 => Slot.c0 | .c1 => Slot.c1
  if field 47 40 w = 0 then decodeNop sl w
  else match opRow (field 47 40 w) cOps with
    | none => .error ⟨0x01, 40, sl⟩
    | some mk => checkFields sl 0 (mk (CForm.ofBits u w))

/-- What the expander knows of the kernel when it checks a bundle: RF and ACC of the partition word (R15), and the circuits
this core sends and receives on (R60). -/
structure ExpandEnv where
  rf : Nat
  acc : Nat
  sends : List Nat
  receives : List Nat
  deriving DecidableEq, Repr

/-- The widest environment: every register and every circuit there is. -/
def ExpandEnv.all : ExpandEnv := ⟨32, 16, List.range 256, List.range 256⟩

/-- CH must name a circuit of which this core is the right end (R60). -/
def circuitOk (e : ExpandEnv) : Instr → Bool
  | .send f => e.sends.contains f.ch.toNat
  | .recv f | .recvadd f | .recvmax f => e.receives.contains f.ch.toNat
  | _ => true

/-- The lowest bad field of a K-slot operation, its CH among them (R60, R70). -/
def lowestBad (i : Instr) (chOk : Bool) : Option Nat :=
  match badField i with
  | none => if chOk then none else some 10
  | some p => some (if chOk then p else min p 10)

/-- The K slot (R52, R54, R60). -/
def decodeK (e : ExpandEnv) (w : Nat) : Except Reject Instr :=
  if field 47 40 w = 0 then decodeNop .k w
  else match opRow (field 47 40 w) kOps with
    | none => .error ⟨0x01, 40, .k⟩
    | some mk =>
      let i := mk (KForm.ofBits w)
      if field 5 0 w ≠ 0 then .error ⟨0x02, 0, .k⟩
      else match lowestBad i (circuitOk e i) with
        | some p => .error ⟨0x08, p, .k⟩
        | none => .ok i

/-- One slot, its opcode and fields checked. -/
def decodeSlot (e : ExpandEnv) (sl : Slot) (w : Nat) : Except Reject Instr :=
  match sl with
  | .header => if field 7 2 w = 0 then .ok (.nop .header) else .error ⟨0x02, 2, .header⟩
  | .s => decodeS w
  | .va => decodeV .va w
  | .vb => decodeV .vb w
  | .m => decodeM w
  | .c0 => decodeC .c0 w
  | .c1 => decodeC .c1 w
  | .k => decodeK e w

/-- The checks of one slot in the order of R71: 0x01, 0x02, 0x08, 0x04, 0x05. -/
def checkSlot (e : ExpandEnv) (sl : Slot) (w : Nat) : Except Reject Instr :=
  match decodeSlot e sl w with
  | .error r => .error r
  | .ok i => match outsidePartition e.rf e.acc i with
      | some p => .error ⟨0x04, p, sl⟩
      | none => if c1Only i && sl == .c0 then .error ⟨0x05, 40, sl⟩ else .ok i

/-- A decoded bundle: its header bits and its seven operations (R44, R45). -/
structure Bundle where
  brace : Bool
  tmark : Bool
  s : Instr
  va : Instr
  vb : Instr
  m : Instr
  c0 : Instr
  c1 : Instr
  k : Instr
  deriving DecidableEq, Repr

/-- The operations of a bundle in slot order. -/
def Bundle.ops (b : Bundle) : List Instr := [b.s, b.va, b.vb, b.m, b.c0, b.c1, b.k]

/-- A bundle that holds only no-ops. -/
def Bundle.empty : Bundle :=
  ⟨false, false, .nop .s, .nop .va, .nop .vb, .nop .m, .nop .c0, .nop .c1, .nop .k⟩

/-- A conflict of R61 between an operation and those of lower slots: reported at the higher slot, with the lowest field that
writes a shared target (R70). -/
def conflictAt (earlier : List RegName) (i : Instr) : Option Nat :=
  ((targetsOf i).filter fun t => earlier.contains t.2).foldl (fun m t => match m with
    | none => some t.1
    | some p => some (min p t.1)) none

/-- The conflict that is reported of a list of operations: of several, one of the lowest second slot (R70, R71). [DESIGN CHOICE: log 116] -/
def firstConflict (earlier : List RegName) : List Instr → Option Reject
  | [] => none
  | i :: rest => match conflictAt earlier i with
    | some p => some ⟨0x06, p, slotOf i⟩
    | none => firstConflict (earlier ++ (targetsOf i).map (·.2)) rest

/-- Whether a slot holds a no-op. -/
def isNop : Instr → Bool
  | .nop _ => true
  | _ => false

/-- Every check of a bundle in the order of R71: the slots in order, then 0x06, then 0x07. -/
def decodeBundle (e : ExpandEnv) (w : BitVec 384) : Except Reject Bundle := do
  let _ ← checkSlot e .header (slotBits .header w)
  let s ← checkSlot e .s (slotBits .s w)
  let va ← checkSlot e .va (slotBits .va w)
  let vb ← checkSlot e .vb (slotBits .vb w)
  let m ← checkSlot e .m (slotBits .m w)
  let c0 ← checkSlot e .c0 (slotBits .c0 w)
  let c1 ← checkSlot e .c1 (slotBits .c1 w)
  let k ← checkSlot e .k (slotBits .k w)
  let b : Bundle := ⟨bitOf 0 w.toNat, bitOf 1 w.toNat, s, va, vb, m, c0, c1, k⟩
  match firstConflict [] b.ops with
  | some r => .error r
  | none => if !isNop k && !b.brace then .error ⟨0x07, 40, .k⟩ else .ok b

/-! ## The encoder -/

/-- The opcode of a slot operation in its grid (R54); a no-op and an event have 0. -/
def opcodeOf : Instr → Nat
  | .nop _ => 0x00
  | .brace => 0x00
  | .tmark => 0x00
  | .add _ => 0x01
  | .sub _ => 0x02
  | .mul _ => 0x03
  | .mulh _ => 0x04
  | .div _ => 0x05
  | .rem _ => 0x06
  | .and _ => 0x07
  | .or _ => 0x08
  | .xor _ => 0x09
  | .andn _ => 0x0A
  | .shl _ => 0x0B
  | .shr _ => 0x0C
  | .sra _ => 0x0D
  | .rot _ => 0x0E
  | .min _ => 0x0F
  | .max _ => 0x10
  | .clz _ => 0x11
  | .popc _ => 0x12
  | .sel _ => 0x13
  | .cmp _ => 0x14
  | .awr _ => 0x15
  | .ard _ => 0x16
  | .ainc _ => 0x17
  | .addI _ => 0x21
  | .subI _ => 0x22
  | .mulI _ => 0x23
  | .mulhI _ => 0x24
  | .divI _ => 0x25
  | .remI _ => 0x26
  | .andI _ => 0x27
  | .orI _ => 0x28
  | .xorI _ => 0x29
  | .andnI _ => 0x2A
  | .shlI _ => 0x2B
  | .shrI _ => 0x2C
  | .sraI _ => 0x2D
  | .rotI _ => 0x2E
  | .minI _ => 0x2F
  | .maxI _ => 0x30
  | .aincI _ => 0x37
  | .movi _ => 0x3E
  | .movhi _ => 0x3F
  | .fadd _ => 0x40
  | .fmul _ => 0x41
  | .ffma _ => 0x42
  | .fmin _ => 0x43
  | .fmax _ => 0x44
  | .fcmp _ => 0x45
  | .cvtif _ => 0x46
  | .cvtfi _ => 0x47
  | .lds _ => 0x50
  | .sts _ => 0x51
  | .hld _ => 0x52
  | .hst _ => 0x53
  | .hmov _ => 0x54
  | .hpin _ => 0x55
  | .hunpin _ => 0x56
  | .hnull _ => 0x57
  | .br _ => 0x60
  | .jmp _ => 0x61
  | .call _ => 0x62
  | .ret _ => 0x63
  | .loop _ => 0x64
  | .lend _ => 0x65
  | .halt _ => 0x66
  | .trap _ => 0x67
  | .tret _ => 0x68
  | .yield _ => 0x69
  | .twait _ => 0x80
  | .ttest _ => 0x81
  | .sleept _ => 0x82
  | .tprom _ => 0x83
  | .waitl _ => 0x84
  | .waitr _ => 0x85
  | .getsr _ => 0x90
  | .setsr _ => 0x91
  | .ftset _ => 0x92
  | .ftld _ => 0x93
  | .stepadv _ => 0x94
  | .kest _ => 0x95
  | .vadd _ => 0x01
  | .vsub _ => 0x02
  | .vmul _ => 0x03
  | .vfma _ => 0x04
  | .vfms _ => 0x05
  | .vmin _ => 0x06
  | .vmax _ => 0x07
  | .vabs _ => 0x08
  | .vneg _ => 0x09
  | .vmovi _ => 0x0A
  | .vand _ => 0x40
  | .vor _ => 0x41
  | .vxor _ => 0x42
  | .vnot _ => 0x43
  | .vshl _ => 0x44
  | .vshr _ => 0x45
  | .vsra _ => 0x46
  | .vpopc _ => 0x47
  | .vclz _ => 0x48
  | .vsel _ => 0x49
  | .vqand _ => 0x4A
  | .vqor _ => 0x4B
  | .vqnot _ => 0x4C
  | .vcmpEq _ => 0x50
  | .vcmpNe _ => 0x51
  | .vcmpLt _ => 0x52
  | .vcmpLe _ => 0x53
  | .vcmpGt _ => 0x54
  | .vcmpGe _ => 0x55
  | .vexp2 _ => 0x60
  | .vlog2 _ => 0x61
  | .vrcp _ => 0x62
  | .vrsq _ => 0x63
  | .vsqrt _ => 0x64
  | .vcvt _ => 0x70
  | .vpack _ => 0x71
  | .vunpk _ => 0x72
  | .vld _ => 0x80
  | .vst _ => 0x81
  | .vldx _ => 0x82
  | .vstx _ => 0x83
  | .vstmb _ => 0x84
  | .vldmb _ => 0x85
  | .vbcast _ => 0x86
  | .vextr _ => 0x87
  | .vperm _ => 0xA0
  | .vxcrs _ => 0xA1
  | .vradd _ => 0xA2
  | .vrmax _ => 0xA3
  | .vrmin _ => 0xA4
  | .vwstmp _ => 0xB2
  | .vwfac _ => 0xB0
  | .vwmrg _ => 0xB1
  | .vzrd _ => 0xB8
  | .vzwr _ => 0xB9
  | .mma _ => 0x01
  | .mmai _ => 0x02
  | .mmas _ => 0x03
  | .mgath _ => 0x04
  | .mzero _ => 0x05
  | .mzld _ => 0x06
  | .mzst _ => 0x07
  | .mtrn _ => 0x08
  | .cpget _ => 0x01
  | .cpput _ => 0x02
  | .cpfill _ => 0x07
  | .cpstr _ => 0x03
  | .cptile _ => 0x04
  | .cppair _ => 0x05
  | .cpbay _ => 0x06
  | .nmcmd _ => 0x20
  | .cpwget _ => 0x21
  | .cpwput _ => 0x22
  | .cpwacc _ => 0x23
  | .hget _ => 0x30
  | .hput _ => 0x31
  | .hacc _ => 0x32
  | .fence _ => 0x78
  | .scfence _ => 0x79
  | .wcreate _ => 0x40
  | .wfree _ => 0x41
  | .wget _ => 0x42
  | .wput _ => 0x43
  | .wacc _ => 0x44
  | .wfaa _ => 0x60
  | .wcas _ => 0x61
  | .wswap _ => 0x62
  | .wfence _ => 0x45
  | .wpost _ => 0x46
  | .wstart _ => 0x47
  | .wcmpl _ => 0x48
  | .wwait _ => 0x49
  | .wlock _ => 0x4A
  | .wunlk _ => 0x4B
  | .cntinc _ => 0x63
  | .cntrd _ => 0x64
  | .ctrig _ => 0x65
  | .ctdis _ => 0x66
  | .barinit _ => 0x70
  | .bararr _ => 0x71
  | .barwait _ => 0x72
  | .bayadd _ => 0x73
  | .baycas _ => 0x74
  | .coll _ => 0x80
  | .collq _ => 0x81
  | .send _ => 0x01
  | .recv _ => 0x02
  | .recvadd _ => 0x03
  | .recvmax _ => 0x04
  | .illegalEncoding _ => 0x00
  | .segmentEnd => 0x00
  | .expandBundle => 0x00
  | .sResultLand => 0x00
  | .vResultLand => 0x00
  | .mOpStart => 0x00
  | .mResultLand => 0x00
  | .cOpAccept _ => 0x00
  | .cOpLocalComplete _ => 0x00
  | .stagedDrain _ => 0x00
  | .nearMemoryExecute _ => 0x00
  | .fenceComplete _ => 0x00
  | .wdogExpiry => 0x00
  | .yardLookupReply _ => 0x00
  | .coreHalted => 0x00
  | .kernelRetirement _ => 0x00
  | .remoteAccessArrival _ => 0x00
  | .targetAwayRetry _ => 0x00
  | .remoteCompletion _ => 0x00
  | .wfenceArrival _ => 0x00
  | .postArrival _ => 0x00
  | .completionNoticeArrival _ => 0x00
  | .lockRequestArrival _ => 0x00
  | .unlockArrival _ => 0x00
  | .lockRetry _ => 0x00
  | .lockBreak _ => 0x00
  | .leaseExpiry _ => 0x00
  | .counterIncrement _ => 0x00
  | .triggerFire _ _ => 0x00
  | .queueTakeGrant _ _ _ => 0x00
  | .bayAtomicOp _ _ => 0x00
  | .barwaitTimeout _ => 0x00
  | .circuitEntryArrival _ => 0x00
  | .walkerEmit => 0x00
  | .doneNoticeArrival _ => 0x00
  | .collFinishedArrival _ => 0x00
  | .collAbortArrival _ => 0x00
  | .collDeadline _ => 0x00
  | .launch _ => 0x00
  | .qcreate _ => 0x00
  | .qfree _ => 0x00
  | .kill _ => 0x00
  | .mapPages _ => 0x00
  | .inval _ => 0x00
  | .invalComplete _ => 0x00
  | .faultreply _ => 0x00
  | .migrate _ => 0x00
  | .migrateComplete _ => 0x00
  | .classtab _ => 0x00
  | .yardreg _ => 0x00
  | .relay _ => 0x00
  | .relayBatchTurn _ => 0x00
  | .flipFenceAck _ _ _ => 0x00
  | .relayCopy _ => 0x00
  | .relayFinish _ => 0x00
  | .epoch _ => 0x00
  | .epochAdvance _ => 0x00
  | .rates _ => 0x00
  | .seal _ => 0x00
  | .sealComplete _ => 0x00
  | .readRecord _ => 0x00
  | .stripeset _ => 0x00
  | .submissionQueueTailWrite _ _ _ _ => 0x00
  | .journalReadIndexAdvance _ => 0x00
  | .contextCreate _ _ => 0x00
  | .contextDestroy _ => 0x00
  | .kernelBind _ => 0x00
  | .kernelStart _ => 0x00
  | .drainHorizonExpiry _ => 0x00
  | .checkpointBoundExpiry _ => 0x00
  | .checkpointSave _ _ => 0x00
  | .resume _ => 0x00
  | .agingTick _ => 0x00
  | .sweepPassStart _ _ => 0x00
  | .sweepLineStep _ _ => 0x00
  | .streamedBundle _ _ _ => 0x00
  | .powerOnReset _ => 0x00
  | .selfTestEnd _ => 0x00
  | .memoryWipeEnd => 0x00
  | .linkTrainingEnd => 0x00
  | .lifecycleRequest _ => 0x00
  | .attestationRequest _ => 0x00
  | .firmwareUpdate _ _ _ => 0x00
  | .telemetryRequest _ => 0x00
  | .unitFence _ => 0x00
  | .sramSoftError _ => 0x00
  | .sramUncorrectableError _ => 0x00
  | .hbmUncorrectableError _ => 0x00
  | .linkRetrainTimeout _ => 0x00
  | .thermalWarning => 0x00
  | .thermalTrip _ => 0x00
  | .sleepEnd => 0x00
  | .linkRetrainStart _ => 0x00

/-- The bits of an R form with its opcode (R48). -/
def RForm.bits (f : RForm) (op : Nat) : Nat :=
  op <<< 48 ||| f.sd.toNat <<< 42 ||| f.sa.toNat <<< 36 ||| f.sb.toNat <<< 30 ||| f.pg.toNat <<< 26 ||| f.fn.toNat <<< 22

/-- The bits of an I form with its opcode (R48). -/
def IForm.bits (f : IForm) (op : Nat) : Nat :=
  op <<< 48 ||| f.sd.toNat <<< 42 ||| f.sa.toNat <<< 36 ||| f.pg.toNat <<< 32 ||| f.imm.toNat

/-- The bits of a B form with its opcode (R48). -/
def BForm.bits (f : BForm) (op : Nat) : Nat :=
  op <<< 48 ||| f.pg.toNat <<< 44 ||| f.ps.toNat <<< 43 ||| f.tgt.toNat

/-- The bits of a vector slot (R49). -/
def VForm.bits (f : VForm) (op : Nat) : Nat :=
  op <<< 56 ||| f.cm.toNat <<< 48 ||| f.vd.toNat <<< 34 ||| f.va.toNat <<< 20 ||| f.vb.toNat <<< 6 ||| f.qg.toNat <<< 3 |||
    f.ty.toNat

/-- The bits of the matrix slot (R50). -/
def MForm.bits (f : MForm) (op : Nat) : Nat :=
  op <<< 40 ||| f.zd.toNat <<< 32 ||| f.aa.toNat <<< 28 ||| f.ab.toNat <<< 24 ||| f.tO.toNat <<< 18 ||| f.t1.toNat <<< 12 |||
    f.t2.toNat <<< 6 ||| f.t3.toNat

/-- The bits of a copy slot (R51). -/
def CForm.bits (f : CForm) (op : Nat) : Nat :=
  op <<< 40 ||| f.sx.toNat <<< 34 ||| f.sy.toNat <<< 28 ||| f.ap.toNat <<< 24 ||| f.tO.toNat <<< 18 ||| f.t1.toNat <<< 12 |||
    f.t2.toNat <<< 6 ||| f.t3.toNat

/-- The bits of the communication slot (R52). -/
def KForm.bits (f : KForm) (op : Nat) : Nat :=
  op <<< 40 ||| f.cm.toNat <<< 32 ||| f.vr.toNat <<< 18 ||| f.ch.toNat <<< 10 ||| f.qg.toNat <<< 6

/-- The slot word of an operation (R48 to R52); a no-op is all zeros, and an event has no word. -/
def slotWord (i : Instr) : Nat :=
  match i with
  | .nop _ => 0
  | .brace => 0
  | .tmark => 0
  | .add f => f.bits 0x01
  | .sub f => f.bits 0x02
  | .mul f => f.bits 0x03
  | .mulh f => f.bits 0x04
  | .div f => f.bits 0x05
  | .rem f => f.bits 0x06
  | .and f => f.bits 0x07
  | .or f => f.bits 0x08
  | .xor f => f.bits 0x09
  | .andn f => f.bits 0x0A
  | .shl f => f.bits 0x0B
  | .shr f => f.bits 0x0C
  | .sra f => f.bits 0x0D
  | .rot f => f.bits 0x0E
  | .min f => f.bits 0x0F
  | .max f => f.bits 0x10
  | .clz f => f.bits 0x11
  | .popc f => f.bits 0x12
  | .sel f => f.bits 0x13
  | .cmp f => f.bits 0x14
  | .awr f => f.bits 0x15
  | .ard f => f.bits 0x16
  | .ainc f => f.bits 0x17
  | .addI f => f.bits 0x21
  | .subI f => f.bits 0x22
  | .mulI f => f.bits 0x23
  | .mulhI f => f.bits 0x24
  | .divI f => f.bits 0x25
  | .remI f => f.bits 0x26
  | .andI f => f.bits 0x27
  | .orI f => f.bits 0x28
  | .xorI f => f.bits 0x29
  | .andnI f => f.bits 0x2A
  | .shlI f => f.bits 0x2B
  | .shrI f => f.bits 0x2C
  | .sraI f => f.bits 0x2D
  | .rotI f => f.bits 0x2E
  | .minI f => f.bits 0x2F
  | .maxI f => f.bits 0x30
  | .aincI f => f.bits 0x37
  | .movi f => f.bits 0x3E
  | .movhi f => f.bits 0x3F
  | .fadd f => f.bits 0x40
  | .fmul f => f.bits 0x41
  | .ffma f => f.bits 0x42
  | .fmin f => f.bits 0x43
  | .fmax f => f.bits 0x44
  | .fcmp f => f.bits 0x45
  | .cvtif f => f.bits 0x46
  | .cvtfi f => f.bits 0x47
  | .lds f => f.bits 0x50
  | .sts f => f.bits 0x51
  | .hld f => f.bits 0x52
  | .hst f => f.bits 0x53
  | .hmov f => f.bits 0x54
  | .hpin f => f.bits 0x55
  | .hunpin f => f.bits 0x56
  | .hnull f => f.bits 0x57
  | .br f => f.bits 0x60
  | .jmp f => f.bits 0x61
  | .call f => f.bits 0x62
  | .ret f => f.bits 0x63
  | .loop f => f.bits 0x64
  | .lend f => f.bits 0x65
  | .halt f => f.bits 0x66
  | .trap f => f.bits 0x67
  | .tret f => f.bits 0x68
  | .yield f => f.bits 0x69
  | .twait f => f.bits 0x80
  | .ttest f => f.bits 0x81
  | .sleept f => f.bits 0x82
  | .tprom f => f.bits 0x83
  | .waitl f => f.bits 0x84
  | .waitr f => f.bits 0x85
  | .getsr f => f.bits 0x90
  | .setsr f => f.bits 0x91
  | .ftset f => f.bits 0x92
  | .ftld f => f.bits 0x93
  | .stepadv f => f.bits 0x94
  | .kest f => f.bits 0x95
  | .vadd f => f.bits 0x01
  | .vsub f => f.bits 0x02
  | .vmul f => f.bits 0x03
  | .vfma f => f.bits 0x04
  | .vfms f => f.bits 0x05
  | .vmin f => f.bits 0x06
  | .vmax f => f.bits 0x07
  | .vabs f => f.bits 0x08
  | .vneg f => f.bits 0x09
  | .vmovi f => f.bits 0x0A
  | .vand f => f.bits 0x40
  | .vor f => f.bits 0x41
  | .vxor f => f.bits 0x42
  | .vnot f => f.bits 0x43
  | .vshl f => f.bits 0x44
  | .vshr f => f.bits 0x45
  | .vsra f => f.bits 0x46
  | .vpopc f => f.bits 0x47
  | .vclz f => f.bits 0x48
  | .vsel f => f.bits 0x49
  | .vqand f => f.bits 0x4A
  | .vqor f => f.bits 0x4B
  | .vqnot f => f.bits 0x4C
  | .vcmpEq f => f.bits 0x50
  | .vcmpNe f => f.bits 0x51
  | .vcmpLt f => f.bits 0x52
  | .vcmpLe f => f.bits 0x53
  | .vcmpGt f => f.bits 0x54
  | .vcmpGe f => f.bits 0x55
  | .vexp2 f => f.bits 0x60
  | .vlog2 f => f.bits 0x61
  | .vrcp f => f.bits 0x62
  | .vrsq f => f.bits 0x63
  | .vsqrt f => f.bits 0x64
  | .vcvt f => f.bits 0x70
  | .vpack f => f.bits 0x71
  | .vunpk f => f.bits 0x72
  | .vld f => f.bits 0x80
  | .vst f => f.bits 0x81
  | .vldx f => f.bits 0x82
  | .vstx f => f.bits 0x83
  | .vstmb f => f.bits 0x84
  | .vldmb f => f.bits 0x85
  | .vbcast f => f.bits 0x86
  | .vextr f => f.bits 0x87
  | .vperm f => f.bits 0xA0
  | .vxcrs f => f.bits 0xA1
  | .vradd f => f.bits 0xA2
  | .vrmax f => f.bits 0xA3
  | .vrmin f => f.bits 0xA4
  | .vwstmp f => f.bits 0xB2
  | .vwfac f => f.bits 0xB0
  | .vwmrg f => f.bits 0xB1
  | .vzrd f => f.bits 0xB8
  | .vzwr f => f.bits 0xB9
  | .mma f => f.bits 0x01
  | .mmai f => f.bits 0x02
  | .mmas f => f.bits 0x03
  | .mgath f => f.bits 0x04
  | .mzero f => f.bits 0x05
  | .mzld f => f.bits 0x06
  | .mzst f => f.bits 0x07
  | .mtrn f => f.bits 0x08
  | .cpget f => f.bits 0x01
  | .cpput f => f.bits 0x02
  | .cpfill f => f.bits 0x07
  | .cpstr f => f.bits 0x03
  | .cptile f => f.bits 0x04
  | .cppair f => f.bits 0x05
  | .cpbay f => f.bits 0x06
  | .nmcmd f => f.bits 0x20
  | .cpwget f => f.bits 0x21
  | .cpwput f => f.bits 0x22
  | .cpwacc f => f.bits 0x23
  | .hget f => f.bits 0x30
  | .hput f => f.bits 0x31
  | .hacc f => f.bits 0x32
  | .fence f => f.bits 0x78
  | .scfence f => f.bits 0x79
  | .wcreate f => f.bits 0x40
  | .wfree f => f.bits 0x41
  | .wget f => f.bits 0x42
  | .wput f => f.bits 0x43
  | .wacc f => f.bits 0x44
  | .wfaa f => f.bits 0x60
  | .wcas f => f.bits 0x61
  | .wswap f => f.bits 0x62
  | .wfence f => f.bits 0x45
  | .wpost f => f.bits 0x46
  | .wstart f => f.bits 0x47
  | .wcmpl f => f.bits 0x48
  | .wwait f => f.bits 0x49
  | .wlock f => f.bits 0x4A
  | .wunlk f => f.bits 0x4B
  | .cntinc f => f.bits 0x63
  | .cntrd f => f.bits 0x64
  | .ctrig f => f.bits 0x65
  | .ctdis f => f.bits 0x66
  | .barinit f => f.bits 0x70
  | .bararr f => f.bits 0x71
  | .barwait f => f.bits 0x72
  | .bayadd f => f.bits 0x73
  | .baycas f => f.bits 0x74
  | .coll f => f.bits 0x80
  | .collq f => f.bits 0x81
  | .send f => f.bits 0x01
  | .recv f => f.bits 0x02
  | .recvadd f => f.bits 0x03
  | .recvmax f => f.bits 0x04
  | .illegalEncoding _ => 0
  | .segmentEnd => 0
  | .expandBundle => 0
  | .sResultLand => 0
  | .vResultLand => 0
  | .mOpStart => 0
  | .mResultLand => 0
  | .cOpAccept _ => 0
  | .cOpLocalComplete _ => 0
  | .stagedDrain _ => 0
  | .nearMemoryExecute _ => 0
  | .fenceComplete _ => 0
  | .wdogExpiry => 0
  | .yardLookupReply _ => 0
  | .coreHalted => 0
  | .kernelRetirement _ => 0
  | .remoteAccessArrival _ => 0
  | .targetAwayRetry _ => 0
  | .remoteCompletion _ => 0
  | .wfenceArrival _ => 0
  | .postArrival _ => 0
  | .completionNoticeArrival _ => 0
  | .lockRequestArrival _ => 0
  | .unlockArrival _ => 0
  | .lockRetry _ => 0
  | .lockBreak _ => 0
  | .leaseExpiry _ => 0
  | .counterIncrement _ => 0
  | .triggerFire _ _ => 0
  | .queueTakeGrant _ _ _ => 0
  | .bayAtomicOp _ _ => 0
  | .barwaitTimeout _ => 0
  | .circuitEntryArrival _ => 0
  | .walkerEmit => 0
  | .doneNoticeArrival _ => 0
  | .collFinishedArrival _ => 0
  | .collAbortArrival _ => 0
  | .collDeadline _ => 0
  | .launch _ => 0
  | .qcreate _ => 0
  | .qfree _ => 0
  | .kill _ => 0
  | .mapPages _ => 0
  | .inval _ => 0
  | .invalComplete _ => 0
  | .faultreply _ => 0
  | .migrate _ => 0
  | .migrateComplete _ => 0
  | .classtab _ => 0
  | .yardreg _ => 0
  | .relay _ => 0
  | .relayBatchTurn _ => 0
  | .flipFenceAck _ _ _ => 0
  | .relayCopy _ => 0
  | .relayFinish _ => 0
  | .epoch _ => 0
  | .epochAdvance _ => 0
  | .rates _ => 0
  | .seal _ => 0
  | .sealComplete _ => 0
  | .readRecord _ => 0
  | .stripeset _ => 0
  | .submissionQueueTailWrite _ _ _ _ => 0
  | .journalReadIndexAdvance _ => 0
  | .contextCreate _ _ => 0
  | .contextDestroy _ => 0
  | .kernelBind _ => 0
  | .kernelStart _ => 0
  | .drainHorizonExpiry _ => 0
  | .checkpointBoundExpiry _ => 0
  | .checkpointSave _ _ => 0
  | .resume _ => 0
  | .agingTick _ => 0
  | .sweepPassStart _ _ => 0
  | .sweepLineStep _ _ => 0
  | .streamedBundle _ _ _ => 0
  | .powerOnReset _ => 0
  | .selfTestEnd _ => 0
  | .memoryWipeEnd => 0
  | .linkTrainingEnd => 0
  | .lifecycleRequest _ => 0
  | .attestationRequest _ => 0
  | .firmwareUpdate _ _ _ => 0
  | .telemetryRequest _ => 0
  | .unitFence _ => 0
  | .sramSoftError _ => 0
  | .sramUncorrectableError _ => 0
  | .hbmUncorrectableError _ => 0
  | .linkRetrainTimeout _ => 0
  | .thermalWarning => 0
  | .thermalTrip _ => 0
  | .sleepEnd => 0
  | .linkRetrainStart _ => 0

/-- Whether a row of the table is an operation with a word of its own: a slot operation, a no-op or a header bit. -/
def hasWord : Instr → Bool
  | .nop _ => true
  | .brace => true
  | .tmark => true
  | .add _ => true
  | .sub _ => true
  | .mul _ => true
  | .mulh _ => true
  | .div _ => true
  | .rem _ => true
  | .and _ => true
  | .or _ => true
  | .xor _ => true
  | .andn _ => true
  | .shl _ => true
  | .shr _ => true
  | .sra _ => true
  | .rot _ => true
  | .min _ => true
  | .max _ => true
  | .clz _ => true
  | .popc _ => true
  | .sel _ => true
  | .cmp _ => true
  | .awr _ => true
  | .ard _ => true
  | .ainc _ => true
  | .addI _ => true
  | .subI _ => true
  | .mulI _ => true
  | .mulhI _ => true
  | .divI _ => true
  | .remI _ => true
  | .andI _ => true
  | .orI _ => true
  | .xorI _ => true
  | .andnI _ => true
  | .shlI _ => true
  | .shrI _ => true
  | .sraI _ => true
  | .rotI _ => true
  | .minI _ => true
  | .maxI _ => true
  | .aincI _ => true
  | .movi _ => true
  | .movhi _ => true
  | .fadd _ => true
  | .fmul _ => true
  | .ffma _ => true
  | .fmin _ => true
  | .fmax _ => true
  | .fcmp _ => true
  | .cvtif _ => true
  | .cvtfi _ => true
  | .lds _ => true
  | .sts _ => true
  | .hld _ => true
  | .hst _ => true
  | .hmov _ => true
  | .hpin _ => true
  | .hunpin _ => true
  | .hnull _ => true
  | .br _ => true
  | .jmp _ => true
  | .call _ => true
  | .ret _ => true
  | .loop _ => true
  | .lend _ => true
  | .halt _ => true
  | .trap _ => true
  | .tret _ => true
  | .yield _ => true
  | .twait _ => true
  | .ttest _ => true
  | .sleept _ => true
  | .tprom _ => true
  | .waitl _ => true
  | .waitr _ => true
  | .getsr _ => true
  | .setsr _ => true
  | .ftset _ => true
  | .ftld _ => true
  | .stepadv _ => true
  | .kest _ => true
  | .vadd _ => true
  | .vsub _ => true
  | .vmul _ => true
  | .vfma _ => true
  | .vfms _ => true
  | .vmin _ => true
  | .vmax _ => true
  | .vabs _ => true
  | .vneg _ => true
  | .vmovi _ => true
  | .vand _ => true
  | .vor _ => true
  | .vxor _ => true
  | .vnot _ => true
  | .vshl _ => true
  | .vshr _ => true
  | .vsra _ => true
  | .vpopc _ => true
  | .vclz _ => true
  | .vsel _ => true
  | .vqand _ => true
  | .vqor _ => true
  | .vqnot _ => true
  | .vcmpEq _ => true
  | .vcmpNe _ => true
  | .vcmpLt _ => true
  | .vcmpLe _ => true
  | .vcmpGt _ => true
  | .vcmpGe _ => true
  | .vexp2 _ => true
  | .vlog2 _ => true
  | .vrcp _ => true
  | .vrsq _ => true
  | .vsqrt _ => true
  | .vcvt _ => true
  | .vpack _ => true
  | .vunpk _ => true
  | .vld _ => true
  | .vst _ => true
  | .vldx _ => true
  | .vstx _ => true
  | .vstmb _ => true
  | .vldmb _ => true
  | .vbcast _ => true
  | .vextr _ => true
  | .vperm _ => true
  | .vxcrs _ => true
  | .vradd _ => true
  | .vrmax _ => true
  | .vrmin _ => true
  | .vwstmp _ => true
  | .vwfac _ => true
  | .vwmrg _ => true
  | .vzrd _ => true
  | .vzwr _ => true
  | .mma _ => true
  | .mmai _ => true
  | .mmas _ => true
  | .mgath _ => true
  | .mzero _ => true
  | .mzld _ => true
  | .mzst _ => true
  | .mtrn _ => true
  | .cpget _ => true
  | .cpput _ => true
  | .cpfill _ => true
  | .cpstr _ => true
  | .cptile _ => true
  | .cppair _ => true
  | .cpbay _ => true
  | .nmcmd _ => true
  | .cpwget _ => true
  | .cpwput _ => true
  | .cpwacc _ => true
  | .hget _ => true
  | .hput _ => true
  | .hacc _ => true
  | .fence _ => true
  | .scfence _ => true
  | .wcreate _ => true
  | .wfree _ => true
  | .wget _ => true
  | .wput _ => true
  | .wacc _ => true
  | .wfaa _ => true
  | .wcas _ => true
  | .wswap _ => true
  | .wfence _ => true
  | .wpost _ => true
  | .wstart _ => true
  | .wcmpl _ => true
  | .wwait _ => true
  | .wlock _ => true
  | .wunlk _ => true
  | .cntinc _ => true
  | .cntrd _ => true
  | .ctrig _ => true
  | .ctdis _ => true
  | .barinit _ => true
  | .bararr _ => true
  | .barwait _ => true
  | .bayadd _ => true
  | .baycas _ => true
  | .coll _ => true
  | .collq _ => true
  | .send _ => true
  | .recv _ => true
  | .recvadd _ => true
  | .recvmax _ => true
  | .illegalEncoding _ => false
  | .segmentEnd => false
  | .expandBundle => false
  | .sResultLand => false
  | .vResultLand => false
  | .mOpStart => false
  | .mResultLand => false
  | .cOpAccept _ => false
  | .cOpLocalComplete _ => false
  | .stagedDrain _ => false
  | .nearMemoryExecute _ => false
  | .fenceComplete _ => false
  | .wdogExpiry => false
  | .yardLookupReply _ => false
  | .coreHalted => false
  | .kernelRetirement _ => false
  | .remoteAccessArrival _ => false
  | .targetAwayRetry _ => false
  | .remoteCompletion _ => false
  | .wfenceArrival _ => false
  | .postArrival _ => false
  | .completionNoticeArrival _ => false
  | .lockRequestArrival _ => false
  | .unlockArrival _ => false
  | .lockRetry _ => false
  | .lockBreak _ => false
  | .leaseExpiry _ => false
  | .counterIncrement _ => false
  | .triggerFire _ _ => false
  | .queueTakeGrant _ _ _ => false
  | .bayAtomicOp _ _ => false
  | .barwaitTimeout _ => false
  | .circuitEntryArrival _ => false
  | .walkerEmit => false
  | .doneNoticeArrival _ => false
  | .collFinishedArrival _ => false
  | .collAbortArrival _ => false
  | .collDeadline _ => false
  | .launch _ => false
  | .qcreate _ => false
  | .qfree _ => false
  | .kill _ => false
  | .mapPages _ => false
  | .inval _ => false
  | .invalComplete _ => false
  | .faultreply _ => false
  | .migrate _ => false
  | .migrateComplete _ => false
  | .classtab _ => false
  | .yardreg _ => false
  | .relay _ => false
  | .relayBatchTurn _ => false
  | .flipFenceAck _ _ _ => false
  | .relayCopy _ => false
  | .relayFinish _ => false
  | .epoch _ => false
  | .epochAdvance _ => false
  | .rates _ => false
  | .seal _ => false
  | .sealComplete _ => false
  | .readRecord _ => false
  | .stripeset _ => false
  | .submissionQueueTailWrite _ _ _ _ => false
  | .journalReadIndexAdvance _ => false
  | .contextCreate _ _ => false
  | .contextDestroy _ => false
  | .kernelBind _ => false
  | .kernelStart _ => false
  | .drainHorizonExpiry _ => false
  | .checkpointBoundExpiry _ => false
  | .checkpointSave _ _ => false
  | .resume _ => false
  | .agingTick _ => false
  | .sweepPassStart _ _ => false
  | .sweepLineStep _ _ => false
  | .streamedBundle _ _ _ => false
  | .powerOnReset _ => false
  | .selfTestEnd _ => false
  | .memoryWipeEnd => false
  | .linkTrainingEnd => false
  | .lifecycleRequest _ => false
  | .attestationRequest _ => false
  | .firmwareUpdate _ _ _ => false
  | .telemetryRequest _ => false
  | .unitFence _ => false
  | .sramSoftError _ => false
  | .sramUncorrectableError _ => false
  | .hbmUncorrectableError _ => false
  | .linkRetrainTimeout _ => false
  | .thermalWarning => false
  | .thermalTrip _ => false
  | .sleepEnd => false
  | .linkRetrainStart _ => false

/-- The header of the bundle that holds one operation alone: BRACE for a brace and for a K-slot operation (R45, R62), TMARK
for a trace marker. -/
def headerFor (i : Instr) : Nat :=
  match i with
  | .brace => 1
  | .tmark => 2
  | _ => if slotOf i = .k ∧ slotWord i ≠ 0 then 1 else 0

/-- The bundle that holds one operation alone; an event has none. -/
def encode (i : Instr) : Option (BitVec 384) :=
  if hasWord i then some (BitVec.ofNat 384 (headerFor i ||| slotWord i <<< slotBase (slotOf i))) else none

/-- The operation a bundle of one operation holds: the first slot that is not a no-op, else the header bit, else NOP. -/
def Bundle.single (b : Bundle) : Option Instr :=
  match b.ops.filter fun i => !isNop i with
  | [i] => some i
  | [] => some (if b.brace then .brace else if b.tmark then .tmark else .nop .s)
  | _ => none

/-- The instruction of a bundle that holds one operation. -/
def decodeOne (w : BitVec 384) : Option Instr :=
  match decodeBundle ExpandEnv.all w with
  | .ok b => b.single
  | .error _ => none

/-- The instruction read from a bundle whose low `nbits` bits are `w` and whose other bits are zero. -/
def decodeTableWord (nbits w : Nat) : Option Instr := decodeOne (BitVec.ofNat 384 (w % 2 ^ nbits))

/-! ## Stored code -/

/-- A segment header as R66 lays it out; a null pointer is `none`. -/
structure SegHeader where
  likely : Option Nat
  next : Option Nat
  hint : Bool
  len : Nat
  deriving DecidableEq, Repr

/-- The null segment pointer (R66). -/
def nullSeg : Nat := 0x3FFFFFF

/-- A segment pointer field. -/
def segPtr (n : Nat) : Option Nat := if n = nullSeg then none else some n

/-- A header of 128 bits, or none where it is malformed for `nseg` segments with `handler` the handler segment and `self`
this one (R66, R67). -/
def parseSegHeader (nseg : Nat) (handler : Option Nat) (self : Nat) (w : BitVec 128) : Option SegHeader :=
  let n := w.toNat
  let h : SegHeader := ⟨segPtr (field 75 50 n), segPtr (field 49 24 n), bitOf 16 n, field 15 0 n⟩
  let ptrOk (p : Option Nat) : Bool := match p with
    | none => true
    | some g => decide (g < nseg) && ((some g == handler) == (some self == handler))
  if field 127 76 n = 0 ∧ field 23 17 n = 0 ∧ h.len ≠ 0 ∧ ptrOk h.likely ∧ ptrOk h.next ∧ ¬(h.hint ∧ h.likely = none) then
    some h else none

/-- The bits of field units, each unit above the one before it (R64). -/
def unitsBits : List (BitVec 16) → Nat
  | [] => 0
  | u :: rest => u.toNat + 2 ^ 16 * unitsBits rest

/-- The total width of the slots present in a mask, and the bundle its stream gives: slots in mask order (R64). -/
def unpackSlots (mask : Nat) (stream : Nat) : List Slot → Nat → Nat × Nat
  | [], _ => (0, 0)
  | sl :: rest, bit =>
    if bitOf bit mask then
      let (w, b) := unpackSlots mask (stream >>> slotWidth sl) rest (bit + 1)
      (w + slotWidth sl, b ||| (stream % 2 ^ slotWidth sl) <<< slotBase sl)
    else unpackSlots mask stream rest (bit + 1)

/-- One bundle of a segment's units at offset `pos`, as the expander reads it (R65): the bundle, the offset after it and
whether it is a literal, or the reason 0x09 or 0x0A. -/
def expandUnit (dict : List (BitVec 384)) (units : List (BitVec 16)) (len pos : Nat) :
    Except Nat (BitVec 384 × Nat × Bool) :=
  let u := (units.getD pos 0).toNat
  if u ≠ 0xFFFF then
    match dict[u]? with
    | none => .error 0x09
    | some b => .ok (b, pos + 1, false)
  else if len ≤ pos + 1 then .error 0x0A
  else
    let m := (units.getD (pos + 1) 0).toNat
    if 0x100 ≤ m then .error 0x0A
    else
      let width := (unpackSlots m 0 slotOrder 0).1
      let k := ceilDiv width 16
      if len < pos + 2 + k then .error 0x0A
      else
        let stream := unitsBits ((units.drop (pos + 2)).take k)
        if stream >>> width ≠ 0 then .error 0x0A
        else .ok (BitVec.ofNat 384 (unpackSlots m stream slotOrder 0).2, pos + 2 + k, true)

/-- A position as TRAPPC, TRAPAT and RET hold it: segment pointer in [63:16], unit offset in [15:0] (R17). -/
structure Position where
  seg : Nat
  unit : Nat
  deriving DecidableEq, Repr

/-- The 64-bit word of a position (R17). -/
def Position.word (p : Position) : W64 := BitVec.ofNat 64 (p.seg <<< 16 ||| p.unit)

/-- The position a branch target names, from segment `seg` (R68). -/
def targetOf (seg : Nat) (tgt : BitVec 43) : Position :=
  let n := tgt.toNat
  if bitOf 42 n then ⟨field 41 16 n, field 15 0 n⟩ else ⟨seg, field 15 0 n⟩

end Sys2Proof
end

