-- ==== Sys2Proof/Machine/State.lean ====
section
/-! DEFINITION. The state of one DW9 module as plain data: its cores, HBM, contexts, kernels, windows, counters, yard regions,
command processor and boot state. The core in focus stands in `core`; every other core that differs from a wiped one stands in
`peers`. What an unlisted key of a sparse list holds is named where the list is read (Ops.lean). -/

namespace Sys2Proof.Machine

/-! ## Flags, tokens, handles -/

/-- The sticky flags of KSTATUS (R18). -/
structure Flags where
  nv : Bool := false
  dz : Bool := false
  of : Bool := false
  uf : Bool := false
  nx : Bool := false
  sat : Bool := false
  deriving DecidableEq, Repr

/-- A dependence token (R13, R90). `owner` is the operation that named it last and `prev` the one before that (a slot of the
same bundle waits on `prev`, R46); `va` is VA[56:8] of its first failing byte (R73); `awaited` is the mark of R397. -/
structure Token where
  done : Bool := true
  promise : W64 := 0
  status : Nat := 0
  owner : Nat := 0
  prev : Nat := 0
  va : Nat := 0
  awaited : Bool := false
  deriving DecidableEq, Repr

/-- The states of a handle (R91). -/
inductive HState where
  | idle | pending | localDone | complete
  deriving DecidableEq, Repr

/-- A completion handle (R13, R91, R92). -/
structure Handle where
  st : HState := .idle
  status : Nat := 0
  owner : Nat := 0
  awaited : Bool := false
  deriving DecidableEq, Repr

/-! ## Writes on their way to a register -/

/-- Where a slot result goes and what it is. `v` and `z` list the acting lanes or elements only (R98); `ref` is what an HLD loads into an h
register, which an epoch advance leaves as it is (R327). -/
inductive Dst where
  | s (n : Nat) (x : W64)
  | p (n : Nat) (x : Bool)
  | q (n : Nat) (mask x : BitVec 128)
  | a (n : Nat) (x : W64)
  | h (n : Nat) (x : W64)
  | ref (n : Nat) (x : W64)
  | lc (n : Nat) (x : W32)
  | fm (n : Nat) (x : W32)
  | v (n : Nat) (lanes : List (Nat × W32))
  | z (n : Nat) (elems : List (Nat × W32))
  | kstatus (x : W64)
  | ksave (x : W64)
  | ftb (x : BitVec 6)
  | ftsel (x : BitVec 2)
  | kest (x : W64)
  deriving DecidableEq, Repr

/-- A slot result that lands when the core's unfrozen clock reaches `due` (R72, R100, R210), with the flags it raises (R231). -/
structure Pending where
  due : Nat
  slot : Slot
  dst : List Dst
  flags : Flags
  deriving DecidableEq, Repr

/-! ## Engines -/

/-- The matrix operations (R125). -/
inductive MKind where
  | mma | mmai | mmas | mgath | mzero | mzld | mzst | mtrn
  deriving DecidableEq, Repr

/-- A matrix operation from its issue until its result lands, with what it read at issue (R129, R132, R133). `occEnd`
and `land` count the core's unfrozen clock; `zOut`, `pOut` and `flags` are its results, computed when it starts. -/
structure MOp where
  id : Nat
  kind : MKind
  z : Nat
  aOff : Nat
  bOff : Nat
  row : W64
  shapeA : W32
  shapeB : W32
  shapeO : W32
  desc : BitVec 256
  tok : Nat
  waits : List Nat
  chained : Bool
  started : Bool
  occEnd : Nat
  land : Nat
  zOut : List (Nat × W32)
  pOut : List (Nat × Byte)
  flags : Flags
  banks : List Nat
  deriving DecidableEq, Repr

/-- How far a copy-engine operation has come: queued, accepted but waiting for a translation or for a held path, moving, locally
complete. -/
inductive CStage where
  | queued | held | moving | localDone
  deriving DecidableEq, Repr

/-- A copy-engine operation from its issue until all of its effects are over, with the registers, the descriptor and the STEP it
read at issue (R147), the tokens it waits on, its promise and status, and the bytes staged for its outward effect (R152). `addr`
is what acceptance resolved (an object address, a target core), `phys` the translations it was accepted under, from 256-byte block
to module-memory address (R153), `covers` the earlier operations it must follow (R169, R269), `logged` whether its staged bytes
stand in the shore log (R152), `err` the lowest failing address noted on a fence (R170) or the interval a released WFENCE opens
(R247), `replies` the parts answered, each with its
status (R253), `faulted` the pages whose fault it waits on, `refused` the pages it may not reach
(R378), and `accs` the accesses of a put or an accumulate as its window stood at acceptance (R181). `relAt` is the MCYC of its release,
`targets` the member ranks that its accesses go to (R253) and `routes` the bays, as (module, bay), with their colour (R241, R267), `fired` marks the operation of a fired trigger (R188), and `handed` one that
the near-memory unit has taken over with its staged bytes (R152, R163). `moved` is the resume offset of an operation that a checkpoint
stopped (R355), `asked` the parts requested and not answered, `stale` those of them whose replies are dropped because they
are fetched again (R356), and `flags` those that the lines moved so far raise when the token becomes done (R166, R231). -/
structure COp where
  id : Nat
  opc : Nat
  f : CForm
  x : W64
  y : W64
  href : W64
  area : W64
  desc : BitVec 1024
  desc2 : BitVec 256
  step : W64
  fi : Nat
  opened : Bool
  waits : List Nat
  stage : CStage
  accAt : Nat
  promise : Option Nat
  status : Nat
  outward : Bool
  released : Bool
  drained : Bool
  hnd : Option Nat
  staged : List Byte
  addr : Nat
  phys : List (Nat × Nat)
  banks : List Nat
  covers : List Nat
  err : Option Nat
  logged : Bool
  parts : Nat
  replies : List (Nat × Nat)
  faulted : List Nat
  refused : List Nat
  accs : List Access
  relAt : Nat := 0
  targets : List Nat := []
  routes : List (Nat × Nat) := []
  fired : Bool := false
  handed : Bool := false
  moved : Nat := 0
  asked : List Nat := []
  stale : List Nat := []
  flags : Flags := {}
  deriving DecidableEq, Repr

/-- A copy engine: its private TLB of pages, most recent first, each by its first 64 KiB and its size code (R374), and the unfrozen clock at which its transfer phase
ends (R148). -/
structure Engine where
  tlb : List (Nat × Nat) := []
  freeAt : Nat := 0
  deriving DecidableEq, Repr

/-- The C1 walker of a collective (R197, R198, R288 to R291). `num` counts the collectives that its window's member started before
it; `redo` lists the parts of a get that are fetched again (R356), `pages` the pages whose faults it waits for and `refused` those it may
not reach (R378). `state` is 0 from its release to its start, 1 while it emits, 2 while it awaits completion, 3 once it has ended. -/
structure Walker where
  op : Nat
  record : BitVec 1024
  recOff : Nat
  key : WinKey
  num : Nat
  rank : Nat
  next : Nat
  emitted : Nat
  landed : Nat
  rejected : Bool
  sent : List (Nat × Nat)
  noticed : Bool
  finishedSent : Bool
  aborted : Bool
  finals : Nat
  relBeat : Nat
  status : Nat
  state : Nat
  redo : List Nat := []
  pages : List Nat := []
  refused : List Nat := []
  deriving DecidableEq, Repr

/-! ## Rollback -/

/-- A record of the shore log (R339): what a register, tile or granule held before its first write since the brace, or the bytes
an operation staged with the pool offset they were read at and its engine and queue position; `ivl` is the interval it was made in. A
granule is named by its number in the pool. -/
inductive LogRec where
  | vreg (ivl n : Nat) (old : List (Nat × W32))
  | tile (ivl n : Nat) (old : List (Nat × W32))
  | granule (ivl n : Nat) (old : List (Nat × Byte))
  | staged (ivl op len off name : Nat)
  deriving DecidableEq, Repr

/-- The first unawaited error of R397: MCYC, core index, whether a handle, number, status. -/
structure FirstError where
  at_ : Nat
  core : Nat
  isHandle : Bool
  num : Nat
  status : Nat
  deriving DecidableEq, Repr

/-- The state a brace copies (R337), with the number of the first operation issued after it (R343). `sent` says
that the SEND of its bundle has been executed (R195); `mLast` is the matrix operation queued last (R133), `unaw` and `firstErr` the
errors counted so far (R397). -/
structure BraceCopy where
  s : List (Nat × W64) := []
  p : List (Nat × Bool) := []
  q : List (Nat × BitVec 128) := []
  a : List (Nat × W64) := []
  h : List (Nat × W64) := []
  lc : List (Nat × W32) := []
  fm : List (Nat × W32) := []
  tok : List (Nat × Token) := []
  hnd : List (Nat × Handle) := []
  strict : Bool := false
  kest : W64 := 0
  ftb : BitVec 6 := 0
  ftsel : BitVec 2 := 0
  pos : Position := ⟨0, 0⟩
  sent : Bool := false
  firstOp : Nat := 0
  mLast : Nat := 0
  unaw : Nat := 0
  firstErr : Option FirstError := none
  deriving DecidableEq, Repr

/-! ## The sequencer -/

/-- A yard wait of HLD or HPIN (R82, R85): the registers and slot concerned, the reference looked up, and the
MCYC before which no reply can be its own; `res` is what the lookup found for it when it was made (R323, R327). -/
structure YardWait where
  pin : Bool
  dst : Nat
  hreg : Nat
  off : Nat
  ref : W64
  region : RegKey
  due : Nat
  res : W64 := 0
  deriving DecidableEq, Repr

/-- What a frozen core awaits (R209). -/
inductive Freeze where
  | token (t : Nat)
  | yard (w : YardWait)
  | receive (i : Instr)
  deriving DecidableEq, Repr

/-- The states of a core (R25); MODE tells the handler state from the running one. -/
inductive RunState where
  | unbound
  | loaded
  | running
  | waitToken (t : Nat)
  | waitLocal (c : Nat)
  | waitRemote (c : Nat)
  | sleeping (t : Nat)
  | frozen (f : Freeze)
  | halting
  | halted
  | stopped
  deriving DecidableEq, Repr

/-- An expanded bundle: the unit offset where it begins and where the next one begins, and either the bundle or why it is marked as
trapping (R65, R69). -/
structure XItem where
  off : Nat
  next : Nat
  bundle : Bundle
  bad : Option Reject
  deriving DecidableEq, Repr

/-- A half of the loop buffer (R214, R215): the segment, what has been expanded of it, where the expander stands and when it
produces its next bundle. -/
structure Half where
  seg : Option Nat := none
  items : List XItem := []
  pos : Nat := 0
  nextAt : Nat := 0
  complete : Bool := false
  deriving DecidableEq, Repr

/-- An entry of a receive queue (R194); `used` marks one consumed since the last brace (R195). -/
structure QEntry where
  present : BitVec 128
  lanes : List W32
  used : Bool
  deriving DecidableEq, Repr

/-- An armed trigger (R188); one that is `due` has fired and its operation is about to run (R294). -/
structure Trigger where
  tid : Nat
  thr : W64
  cid : Nat
  opc : Nat
  obuf : Nat
  desc : BitVec 256
  op : Nat
  due : Bool := false
  deriving DecidableEq, Repr

/-- The trace buffer (R218, R219): records oldest first, and how many more may follow the trigger record. -/
structure Trace where
  records : List (BitVec 128) := []
  left : Option Nat := none
  run : Nat × Nat := (0, 0)
  miss : Nat := 0
  deriving DecidableEq, Repr

/-- One core (R9, R11, R13, R17). `ref` is bay × 192 + COREID, `last` the kernel that its trace buffer is of. `src` is the branching bundle whose target is not validated yet, and
whether it was a RET (R68). `issued` says that the bundle at `pos` has issued and control has yet to pass on, `resumeTo` what a core goes
back to when a freeze ends, `waited` the token that the core waits on, as it stood before the bundle of the wait (R46), `since` the flags raised since the last SETSR of KSTATUS issued (R94), `stepsOut` the advances of STEP that its brace has released and its bundle adds as it issues (R309), `mLast` the matrix operation queued last (R133), and `freed` the banks given back at an unfrozen clock (R207). `interval` is the number of the brace interval that the records of the shore
log carry as IVL (R339). `noted` lists, for each error found at the memory after release, the covering fences that have yet to report it
(R170, R391), `left` the results that handler mode has left on their way (R338), and `racing` the bytes of the pool that accesses under way
have yet to change, as the slots of the bundle under way read them (R208). [DESIGN CHOICE: log 1, 172; PRESUMED: log 31; DEDUCED: log 78, 173] -/
structure Core where
  ref : Nat
  kernel : Nat := 0
  idx : Nat := 0
  last : Nat := 0
  -- registers (R13); an unlisted register holds the family's default
  s : List (Nat × W64) := []
  p : List (Nat × Bool) := []
  q : List (Nat × BitVec 128) := []
  a : List (Nat × W64) := []
  h : List (Nat × W64) := []
  lc : List (Nat × W32) := []
  fm : List (Nat × W32) := []
  tok : List (Nat × Token) := []
  hnd : List (Nat × Handle) := []
  -- pool (R21): vector lanes, tile elements, scratchpad bytes
  v : List (Nat × W32) := []
  z : List (Nat × W32) := []
  pool : List (Nat × Byte) := []
  -- system registers (R17, R18)
  flags : Flags := {}
  since : Flags := {}
  strict : Bool := false
  mode : Bool := false
  ksave : W64 := 0
  trapPc : W64 := 0
  trapAt : W64 := 0
  trapSlot : BitVec 8 := 0
  trapCause : BitVec 16 := 0
  trapInfo : W64 := 0
  kest : W64 := 0
  ftb : BitVec 6 := 0
  ftsel : BitVec 2 := 0
  partword : W32 := 0
  wdog : W32 := 0
  -- sequencer
  run : RunState := .unbound
  waited : Token := {}
  pos : Position := ⟨0, 0⟩
  npos : Option Position := none
  clk : Nat := 0
  notBefore : Nat := 0
  first : Nat := 1
  reissue : Bool := false
  src : Option (Position × Bool) := none
  turned : Bool := false
  braced : Bool := false
  issued : Bool := false
  resumeTo : RunState := .running
  frozenFor : Nat := 0
  freed : List (Nat × List Nat) := []
  pend : List Pending := []
  left : List Pending := []
  stores : List (Nat × Byte) := []
  racing : List (Nat × Byte) := []
  -- engines
  mq : List MOp := []
  mFree : Nat := 0
  eng0 : Engine := {}
  eng1 : Engine := {}
  ops : List COp := []
  nextOp : Nat := 1
  walkers : List Walker := []
  steps : Nat := 0
  stepsOut : Nat := 0
  mLast : Nat := 0
  -- rollback
  brace : BraceCopy := {}
  log : List LogRec := []
  interval : Nat := 0
  -- loop buffer
  cur : Half := {}
  idle : Half := {}
  -- circuits, triggers, trace, counts
  queues : List (Nat × List QEntry) := []
  lastSend : List (Nat × Nat) := []
  triggers : List Trigger := []
  trace : Trace := {}
  stalls : List (Nat × Nat) := []
  unaw : Nat := 0
  uncov : Nat := 0
  noted : List (List Nat) := []
  firstErr : Option FirstError := none
  stopReq : Bool := false
  streamErr : Option Nat := none
  deriving DecidableEq, Repr

/-! ## Kernels and images -/

/-- A footprint (R23). -/
inductive Footprint where
  | any (n : Nat)
  | rect (h w : Nat)
  deriving DecidableEq, Repr

/-- A scratchpad-plan entry (R36, R41): its buffer's number, first bank, bank count, offset, size, and the first and last bundle over
which it is live. -/
structure BufferPlan where
  num : Nat
  b : Nat
  nb : Nat
  off : Nat
  size : Nat
  first : Nat
  last : Nat
  deriving DecidableEq, Repr

/-- A circuit of a bond plan (R35, R257): channel, ends as core indexes, latency, send interval, and the bond-table entries it loads as
(place, beat, entry): places 0 to 191 are mesh routers with a 16-bit entry of input codes; from 192 on stand the bay's 4 ports, the 18
Weade ports and the bay's 4 die-to-die ports, whose entry is 1 where the beat is the circuit's and 0 where it is open (R256). The places
of the sender's bay stand as they are, those of the receiver's bay with 256 added where the two differ.
[DESIGN CHOICE: log 146] -/
structure CircuitPlan where
  ch : Nat
  src : Nat
  dst : Nat
  lat : Nat
  interval : Nat
  claims : List (Nat × Nat × Nat)
  deriving DecidableEq, Repr

/-- A segment as a container carries it (R66). -/
structure Segment where
  header : BitVec 128
  units : List (BitVec 16)
  deriving DecidableEq, Repr

/-- The kinds of a symbol (R29, R35). -/
inductive SymbolKind where
  | const | buffer | label | window | record
  deriving DecidableEq, Repr

/-- A symbol of a kernel (R41): name, kind, value, export flag. The value of a buffer's symbol is the buffer's number.
[DESIGN CHOICE: log 6] -/
structure Symbol where
  name : String
  kind : SymbolKind
  value : W64
  exported : Bool
  deriving DecidableEq, Repr

/-- A kernel as its launch loads it (R38, R41): footprints, partition word, plans, format table, constants at scratchpad offsets, the
dictionary and segments with every address image patched. -/
structure KernelImage where
  footprints : List Footprint
  part : W32
  buffers : List BufferPlan
  circuits : List CircuitPlan
  fm : List W32
  rows : List W64
  consts : List (Nat × List Byte)
  dict : List (BitVec 384)
  segs : List Segment
  entry : Option Nat
  handler : Option Nat
  symbols : List Symbol
  deriving DecidableEq, Repr

/-- Where the loader patches an address image (R33, R38, R77) or a KSEL (R161): in the MOVHI immediate of a dictionary entry or of the
literal at a unit of a segment, or in the constants at an offset of a buffer. -/
inductive PatchSite where
  | dict (entry : Nat)
  | literal (seg unit : Nat)
  | image (buf off : Nat)
  | ksel (buf off : Nat)
  deriving DecidableEq, Repr

/-- What a patch names: a buffer of the kernel itself, or a symbol of another kernel of the image, which exports it (R38, R42). -/
inductive PatchName where
  | own (buf : Nat)
  | exported (kernel : Nat) (symbol : String)
  deriving DecidableEq, Repr

/-- A patch of the loader: its site, and what it names (R38, R42). -/
structure Patch where
  site : PatchSite
  name : PatchName
  deriving DecidableEq, Repr

/-- What the sections of one kernel say for which the manual gives no byte layout (R41): the kernel header, the scratchpad plan, the
bond plan, the constants as (buffer, offset, bytes) runs, the symbols, and the places to patch. -/
structure KernelPlan where
  name : String
  footprints : List Footprint
  part : W32
  nbuf : Nat
  entry : Option Nat
  handler : Option Nat
  buffers : List BufferPlan
  circuits : List CircuitPlan
  consts : List (Nat × Nat × List Byte)
  symbols : List Symbol
  patches : List Patch
  deriving DecidableEq, Repr

/-- A loaded cegld image (R41): where its file begins in module memory, and the file's size. Everything else of it is the file's bytes. -/
structure Image where
  addr : Nat
  size : Nat
  deriving DecidableEq, Repr

end Sys2Proof.Machine

/-- What the bytes of a kernel's sections of types 1, 4, 5, 7 and 8 say, in that order; none where they are malformed. The manual gives
those sections no byte layout (R41). [DESIGN CHOICE: log 6] -/
opaque Sys2Proof.Config.kernelPlan : List (List Sys2Proof.Byte) → Option Sys2Proof.Machine.KernelPlan

namespace Sys2Proof.Machine

/-- A queue binding of a kernel (R366). -/
structure QBinding where
  qid : Nat
  freeId : Nat
  fillId : Nat
  consumer : Bool
  deriving DecidableEq, Repr

/-- A root range of a kernel (R366). -/
structure RootRange where
  off : Nat
  len : Nat
  deriving DecidableEq, Repr

/-- Where a kernel stands in its life (R24, R350 to R358, R367). -/
inductive Phase where
  | waiting
  | bound
  | draining
  | checkpointing
  | preempted
  | retired
  deriving DecidableEq, Repr

/-- Why a core of a checkpointed kernel was saved where it was (R352, R354): at a BRACE or YIELD of its own, rolled back when the bound
expired, or halted. [DEDUCED: log 149] -/
inductive SaveCause where
  | brace | bound | halted
  deriving DecidableEq, Repr

/-- The header of a core's record in the context save area (R354). -/
structure SaveHeader where
  kernel : Nat
  core : Nat
  coreid : Nat
  bayid : Nat
  part : W32
  interval : Nat
  mcyc : W64
  cause : SaveCause
  deriving DecidableEq, Repr

/-- The kinds of a parked reply (R356). -/
inductive ParkKind where
  | fill | oldValue | notice
  deriving DecidableEq, Repr

/-- An entry of a reply area (R356): the kernel and its core, the kind, the token or handle, the status and up to 32 data bytes, with
the operation and the part, or the page of a fill, that it answers. -/
structure Parked where
  kernel : Nat
  core : Nat
  kind : ParkKind
  name : Nat
  status : Nat
  data : List Byte
  op : Nat
  part : Nat
  deriving DecidableEq, Repr

/-- A core's record in the context save area (R354): where it begins in protected HBM, its header, the core as the rollback left it
(brace copies, engine state with resume offsets, trigger table, receive queues and pool), and its reply area (R356). The places of its
parts are those of `saveLayout`. [DESIGN CHOICE: log 154] -/
structure SaveRecord where
  addr : Nat
  header : SaveHeader
  core : Core
  replies : List Parked
  deriving DecidableEq, Repr

/-- How a kernel ended (R391). -/
inductive KEnd where
  | halted | killed | faulted
  deriving DecidableEq, Repr

/-- The fault record of a context fault (R349). -/
structure FaultRecord where
  cause : Nat
  core : Nat
  trapPc : W64
  trapAt : W64
  trapSlot : BitVec 8
  trapCause : BitVec 16
  trapInfo : W64
  ksave : W64
  deriving DecidableEq, Repr

/-- A launched kernel (R365 to R373). `seq` is the journal number of its LAUNCH; `cores` are its cores in s1 order, `ords` the bays
in ordinal order; a pre-empted kernel's cores stand in the records of `saved`; `late` are the cores that
the checkpoint's bound rolled back (R352, R354). `ageAt` is the MCYC of its next aging tick, `decideFrom` the step of
R350 from which the next decision on it starts, `record` the fault record that follows its end (R349),
and `replaying` says that its resume has yet to replay its backlog, before which no engine goes on (R357). -/
structure Kernel where
  seq : Nat
  ctx : Nat
  tag : BitVec 32
  img : KernelImage
  imgKey : Nat × Nat
  cls : Nat
  tokens : Nat
  age : Nat
  ageAt : Nat
  ckpt : Bool
  killable : Bool
  stepo : Bool
  wdog : Nat
  ckBound : Nat
  backlog : Nat
  trace : W32
  kest0 : W64
  depA : Nat
  depB : Nat
  roots : List RootRange
  queues : List QBinding
  phase : Phase
  horizon : Nat
  cores : List Nat
  ords : List Nat
  saved : List SaveRecord
  boundAt : W64
  started : Bool
  ending : Option KEnd
  decideFrom : Nat
  record : Option FaultRecord
  late : List Nat := []
  replaying : Bool := false
  deriving DecidableEq, Repr

/-! ## Windows -/

/-- The synchronisation modes of a window (R243). -/
inductive WMode where
  | none | fence | postStart | lock
  deriving DecidableEq, Repr

/-- The window status (R244). -/
structure WinStatus where
  count : Nat := 0
  loff : Nat := 0
  llen : Nat := 0
  lorig : Nat := 0
  lcause : Nat := 0
  lopc : Nat := 0
  foff : Nat := 0
  flen : Nat := 0
  forig : Nat := 0
  fcause : Nat := 0
  fopc : Nat := 0
  ftime : Nat := 0
  deriving DecidableEq, Repr

/-- A lock request in a queue, or a holder with the MCYC of its grant (R250, R251). -/
structure LockEntry where
  rank : Nat
  excl : Bool
  core : Nat
  op : Nat
  since : Nat
  deriving DecidableEq, Repr

/-- A group of ranks (R184). -/
structure Group where
  first : Nat
  count : Nat
  stride : Nat
  deriving DecidableEq, Repr

/-- A window at one member bay: the table entry of R243 with its fence state (R247), the accesses `held` for an interval (R247) and
those `stalled` for a translation (R246), exposure (R248), lock (R250) and status
(R244), the agent engine's copy of the interval (R247), its access groups and post latches (R249), what it awaits, and the peer
counts of the collectives that the member has started, in order (R285). -/
structure Window where
  key : WinKey
  kernel : Nat
  agent : Nat
  node : Nat
  live : Bool
  base : Nat
  len : Nat
  pool : Bool
  unit : Nat
  wth : Bool
  str : Bool
  first : Nat
  count : Nat
  stride : Nat
  lockb : Nat
  rank : Nat
  mode : WMode
  fi : Nat
  opened : Bool
  wfences : List WinMsg
  received : List (Nat × Nat × Nat)
  held : List Access
  stalled : List Access
  exposed : Option Group
  compl : List Nat
  closing : Option Nat
  holders : List LockEntry
  queue : List LockEntry
  broken : List Nat
  status : WinStatus
  agFi : Nat
  agOpen : Bool
  sentTo : List (Nat × Nat × Nat)
  latch : List (Nat × Nat)
  started : Option Group
  taken : List Nat
  creating : Option Nat
  freeing : Option Nat
  fenceOps : List (Nat × Nat)
  colls : List Nat := []
  deriving DecidableEq, Repr

/-- A lease of a bay line in a port's atomic cache, with the beat at which it ends (R254). -/
structure Lease where
  line : Nat
  port : Nat
  ends : Nat
  deriving DecidableEq, Repr

/-- A take waiting on a queue counter (R370). -/
structure Take where
  core : Nat
  op : Nat
  n : Nat
  deriving DecidableEq, Repr

/-- A task-graph queue (R364, R369, R370). -/
structure TaskQueue where
  ctx : Nat
  qid : Nat
  home : Nat
  dom : Bool
  cap : Nat
  free : W64
  fill : W64
  freeTakes : List Take
  fillTakes : List Take
  ovrn : Nat
  deriving DecidableEq, Repr

/-- A bay counter of a kernel (R186). -/
structure Counter where
  kernel : Nat
  bay : Nat
  id : Nat
  value : W64
  deriving DecidableEq, Repr

/-! ## Collectives at the destination -/

/-- The destination port's state of a collective at one member (R288 to R292): of the member's own collective `num` where `src` is
none, else what has come from one sender of its collective `num` with this member before the member has started that one. An
accumulator is keyed by its element's offset; `none` is the NaN mark of R286. `finals` are the offsets of the elements that hold a final
value. `digest` is the one of the sender's notice. `resident`
lists the blocks that stand in an accumulator store with the MCYC at which each came in and its port; the accumulators of the others
are spilled (R288). [DESIGN CHOICE: log 51] -/
structure CollPort where
  key : WinKey
  src : Option Nat
  num : Nat
  digest : List Int
  acc : List (Nat × Option (BitVec 128))
  ovf : List Nat
  nans : Nat
  notices : List (Nat × Nat)
  got : List (Nat × Nat)
  finals : List Nat
  partials : List Nat
  finalised : Bool
  finished : List Nat
  aborted : Bool
  rejected : Bool
  resident : List (Nat × Nat × Nat) := []
  deriving DecidableEq, Repr

/-! ## The yard -/

/-- A forwarding entry (R324). -/
structure Forward where
  src : Nat
  tgt : Nat
  bep : Nat
  deriving DecidableEq, Repr

/-- The steps of a batch that its region is running (R326). -/
inductive BatchStep where
  | fence
  | copy
  | finish
  deriving DecidableEq, Repr

/-- A move of a batch with its state: skipped for a pin, and how many 512-byte blocks have been copied (R325, R326). -/
structure Move where
  src : Nat
  dst : Nat
  size : Nat
  skipped : Bool
  copied : List Nat
  deriving DecidableEq, Repr

/-- A relay batch (R325): the command's sequence number, its moves and, once admitted, its step and the engines whose
acknowledgement the flip fence still awaits with the operations each must drain. -/
structure Batch where
  seq : Nat
  tag : BitVec 32
  moves : List (Nat × Nat)
  step : Option BatchStep
  active : List Move
  acks : List (Nat × Nat × List Nat)
  demand : List (Nat × Nat)
  deriving DecidableEq, Repr

/-- What a region has still to run, in order of submission: a batch or an epoch advance (R325, R327). -/
inductive YardJob where
  | batch (b : Batch)
  | advance (seq : Nat) (tag : BitVec 32)
  deriving DecidableEq, Repr

/-- A yard region (R320). FUSED is the length of its table; `ftab` is the protected address of the table, which no instruction reads.
[DESIGN CHOICE: log 141] -/
structure Region where
  key : RegKey
  base : Nat
  len : Nat
  rwlo : Nat
  rwhi : Nat
  fcap : Nat
  home : Nat
  epoch : Nat
  table : List Forward
  jobs : List YardJob
  ftab : Nat := 0
  deriving DecidableEq, Repr

/-! ## Contexts -/

/-- An outstanding or answered translation fault (R378, R379). -/
structure XFault where
  id : Nat
  page : Nat
  engine : Nat
  core : Nat
  bay : Nat
  kind : Nat
  answered : Bool
  deriving DecidableEq, Repr

/-- A weathering record (R313). -/
structure Weathering where
  swept : W64 := 0
  zeroed : W64 := 0
  stahead : W64 := 0
  malformed : Nat := 0
  lag : Nat := 0
  deriving DecidableEq, Repr

/-- An unmatched-access record (R245, R364). -/
structure Unmatched where
  count : W64 := 0
  node : Nat := 0
  ord : Nat := 0
  win : Nat := 0
  deriving DecidableEq, Repr

/-- A stripe set (R376): members as (module, bay) in rank order. -/
structure StripeSet where
  num : Nat
  members : List (Nat × Nat)
  deriving DecidableEq, Repr

/-- A sweep pass over a context's weathered memory in a bay (R311, R312): the lines left, and whether another pass is due. -/
structure Sweep where
  bay : Nat
  lines : List Nat
  running : Bool
  due : Bool
  deriving DecidableEq, Repr

/-- A page-table leaf of a context, the same in every bay's replica (R375, R377). -/
structure Leaf where
  page : Nat
  word : W64
  deriving DecidableEq, Repr

/-- A key slot: its AES-256-XTS key pair for HBM, its AES-GCM key for the links, and the number of its assignment (R384). -/
structure KeySlot where
  num : Nat
  hbm : BitVec 512
  link : BitVec 256
  deriving DecidableEq, Repr

/-- A context (R305, R308, R371, R375 to R383). `sealed` lists its sealed ranges as (address, length) (R385), `recent` the advances of
STEP that not every agent need see yet: MCYC, core, count (R309). -/
structure Context where
  id : Nat
  lenc : Bool
  menc : Bool
  acceptU : Bool
  key : Option KeySlot
  step : W64
  recent : List (Nat × Nat × W64)
  rates : List (Nat × W32)
  classes : List (Nat × W64)
  stripes : List StripeSet
  leaves : List Leaf
  sealed : List (Nat × Nat)
  faults : List XFault
  nextFault : Nat
  weathering : List (Nat × Weathering)
  unmatched : List (Nat × Unmatched)
  sweeps : List Sweep
  backlog : List (Nat × List (Nat × Instr))
  deriving DecidableEq, Repr

/-! ## The command processor -/

/-- The kinds of a journal record (R390). -/
inductive JKind where
  | accepted | refused | completion | contextFault | translationFault | relay | unitFenced | memoryEvent | lifeCycle
  | windowStatus
  deriving DecidableEq, Repr

/-- What the BODY of a journal record says, by kind (R390): the command entry, a kernel's completion (R391), a fault record (R349,
R379), relay counts (R326), a unit, a memory burst, a life-cycle state or a window status (R391). -/
inductive JBody where
  | empty
  | entry (opc : Nat) (c : Cmd)
  | kernelEnd (stalls : List (Nat × Nat)) (unaw uncov : Nat) (first : Option FirstError) (nwin : Nat) (retire bound : W64)
      (how : KEnd)
  | fault (kernel : Nat) (r : FaultRecord)
  | xfault (f : XFault)
  | relay (rid moved skipped : Nat)
  | unit (u : UnitId)
  | memory (channel burst : Nat)
  | life (l : LifeState)
  | window (w : WinStatus) (win rank : Nat)
  deriving DecidableEq, Repr

/-- A journal record (R390): its header fields and its BODY. -/
structure JRecord where
  seq : Nat
  kind : JKind
  status : Nat
  ctx : Nat
  tag : BitVec 32
  ref : Nat
  body : JBody
  deriving DecidableEq, Repr

end Sys2Proof.Machine

/-- The bits of a record's BODY for the kinds of which the manual names the contents and gives no place for them (R390).
[DESIGN CHOICE: log 77] -/
opaque Sys2Proof.Config.bodyBits : Sys2Proof.Machine.JBody → BitVec 832

namespace Sys2Proof.Machine

/-- A submission queue (R360). -/
structure Ring where
  addr : Nat
  size : Nat
  head : Nat
  tail : Nat
  deriving DecidableEq, Repr

/-- A MAP, INVAL, MIGRATE or SEAL under way: its command, whether it has begun (one that covers a migrating page has not), the range
concerned, and the operations that must complete first (R275, R377, R380, R385). -/
structure PageJob where
  seq : Nat
  ctx : Nat
  tag : BitVec 32
  begun : Bool
  pages : Nat
  leaf : W64
  va : Nat
  len : Nat
  waits : List (Nat × Nat)
  deriving DecidableEq, Repr

/-- The command processor (R360 to R363, R390); `held` are the records a full journal has yet to take, and `late` the entries, with their
opcodes, that wait because another was accepted in the cc in which they came (R363). -/
structure CommandProc where
  rings : List (Nat × Ring) := []
  turn : Nat := 0
  journal : List JRecord := []
  held : List JRecord := []
  nextSeq : Nat := 1
  readIdx : Nat := 0
  maps : List PageJob := []
  invals : List PageJob := []
  migrations : List PageJob := []
  seals : List PageJob := []
  lastAccept : Option Nat := none
  late : List (Nat × Cmd) := []
  deriving DecidableEq, Repr

/-! ## Boot, security, errors -/

/-- The boot steps of R381: the step that has ended last; the queues are open once step 7 has. -/
inductive BootStep where
  | off | started | tested | wiped | open_ | stopped
  deriving DecidableEq, Repr

/-- An attested sealed region (R385). -/
structure SealedRegion where
  ctx : Nat
  va : Nat
  len : Nat
  digest : BitVec 512
  deriving DecidableEq, Repr

/-- An attestation report (R386). -/
structure Report where
  life : LifeState
  firmware : Firmware
  fenced : List UnitId
  seals : List SealedRegion
  nonce : BitVec 512
  signature : BitVec 4096
  deriving DecidableEq, Repr

/-- What a telemetry request is answered with (R392): the sensors' readings, the clocks in MHz, the fence reports, the error counters and
whether a warning stands. -/
structure Telemetry where
  power : Nat
  flow : Nat
  temperatures : List Nat
  clocks : List Nat
  fenced : List UnitId
  errors : List (UnitId × Nat)
  warned : Bool
  deriving DecidableEq, Repr

/-- What the Azdor controller has answered or recorded (R381, R382, R392, R393). -/
inductive ConsoleMsg where
  | report (r : Report)
  | telemetry (t : Telemetry)
  | fenceEvent (u : UnitId)
  | warning
  | bootFailure (f : BootFailure)
  | streamedError (core seq : Nat)
  deriving DecidableEq, Repr

/-- The module's key store (R382): the vendor's test keys, or the identity key and the owner's keys as the k-th provisioning installed
them; none of them once decommissioned. -/
structure KeyStore where
  test : Bool := true
  identity : Option Nat := none
  owner : Option Nat := none
  deriving DecidableEq, Repr

/-- The module's own state beside its compute (R381 to R393). `fails` is the step at which the boot under way fails, if it does; `policy`
lists the policy words of the context table that are not at their reset value (R383); `frameKeys` tells under which assignment of a key
slot a 64 KiB frame of HBM was last mapped (R384). `domain` lists the other modules of the domain, as the
links found them (R258), `errors` are the corrected errors of each unit, `recent` the MCYC of
those of the last 2^30 cc. [DESIGN CHOICE: log 15] -/
structure System where
  boot : BootStep := .off
  life : LifeState := .manufacture
  fenced : List UnitId := []
  errors : List (UnitId × Nat) := []
  recent : List (UnitId × Nat) := []
  keySlots : Nat := 0
  nextKey : Nat := 0
  keys : KeyStore := {}
  provisioned : Nat := 0
  moduleKey : BitVec 512 := 0
  policy : List (Nat × W64) := []
  frameKeys : List (Nat × Nat) := []
  fails : Option BootFailure := none
  seals : List SealedRegion := []
  firmware : Firmware := ⟨0, 0, 0⟩
  staged : Option Firmware := none
  retraining : List (Nat × Nat) := []
  warned : Bool := false
  lifeLog : List LifeState := []
  domain : List Nat := []
  console : List ConsoleMsg := []
  deriving DecidableEq, Repr

/-! ## The module -/

/-- An entry of the agenda: the MCYC at which a step is due, the core it belongs to if it is a core's, and the step. -/
structure Due where
  at_ : Nat
  core : Option Nat
  ev : Instr
  deriving DecidableEq, Repr

/-- One DW9 module. `bonds` lists the entries of the bond tables that are not open as (bay × 256 + place, beat, entry, kernel) (R256); `yardRecent` lists the
lookups that a bay's relay engine holds on the die, most recent first (R323); `streams` are the
bundles on their way down a die's distribution tree as (MCYC, bay, sequence number, bundle) (R217); `spoiled` lists the entries of the
dictionary stores found uncorrectable, as (bay, image and kernel, entry, MCYC at which it is reloaded) (R368, R388); `moved` says which core now has the operations below a number that a core had (R24, R357). [DESIGN CHOICE: log 8, 16] -/
structure State where
  mcyc : W64
  node : BitVec 10
  core : Core
  peers : List Core
  hbm : List Host.Cell
  poison : List Nat
  images : List Image
  contexts : List Context
  kernels : List Kernel
  windows : List Window
  counters : List Counter
  taskQueues : List TaskQueue
  regions : List Region
  yardRecent : List (Nat × List (RegKey × Nat))
  colls : List CollPort
  leases : List Lease
  leaseBar : List (Nat × Nat)
  dieTlb : List (Nat × Nat × Nat × Nat)
  bonds : List (Nat × Nat × Nat × Nat)
  cp : CommandProc
  sys : System
  agenda : List Due
  inputs : List Instr
  outbox : List Instr
  scOrder : List (Nat × Nat × Nat)
  moved : List (Nat × Nat × Nat)
  streams : List (Nat × Nat × Nat × BitVec 384)
  spoiled : List (Nat × (Nat × Nat) × Nat × Option Nat)
  fresh : Nat
  deriving DecidableEq, Repr

/-- A core bound to no kernel: pools wiped, nothing running (R381 step 5). -/
def Core.blank (ref : Nat) : Core := { ref := ref }

/-- The module right after power-on or reset, before boot (R381): all memory wiped, no context, no kernel, no command.
[DESIGN CHOICE: log 2, 3] -/
def State.reset : State where
  mcyc := 0
  node := 0
  core := Core.blank 0
  peers := []
  hbm := []
  poison := []
  images := []
  contexts := []
  kernels := []
  windows := []
  counters := []
  taskQueues := []
  regions := []
  yardRecent := []
  colls := []
  leases := []
  leaseBar := []
  dieTlb := []
  bonds := []
  cp := {}
  sys := {}
  agenda := []
  inputs := []
  outbox := []
  scOrder := []
  moved := []
  streams := []
  spoiled := []
  fresh := 0

/-- Why the machine stops. -/
inductive Fault where
  /-- Raised by `step` in the DECOMMISSIONED state, which is terminal: boot ends after step 5 and no command is accepted (R382).
  Safe: nothing executes there. -/
  | decommissioned
  /-- Raised by `step` once a boot check has failed: the sequence stops, and only a reset leaves it (R381). Safe: nothing executes
  there. -/
  | bootStopped
  deriving DecidableEq, Repr

/-- Why an instruction has no meaning. -/
inductive Refusal where
  /-- Raised by an arm of `exec` whose instruction has no meaning yet. Safe: nothing is claimed of it. -/
  | notModelled (mnemonic : String)
  deriving DecidableEq, Repr

end Sys2Proof.Machine
end

