-- ==== Sys2Proof/Machine/Num.lean ====
section
/-! DEFINITION. Exact numbers and the one encoder and decoder of every floating format (R220 to R232). A number is a NaN, an
infinity or a dyadic rational with a sign; arithmetic on it is exact, and rounding happens in `encodeVal` alone. -/

namespace Sys2Proof.Machine

/-- An exact value: NaN (signalling or not), a signed infinity, or (−1)^neg × m × 2^e. -/
inductive Val where
  | nan (sig : Bool)
  | inf (neg : Bool)
  | fin (neg : Bool) (m : Nat) (e : Int)
  deriving DecidableEq, Repr

/-- The parameters of a floating format (R220, R223). -/
structure Shape where
  sgn : Bool
  exp : Nat
  man : Nat
  bias : Int
  spec : Nat
  deriving DecidableEq, Repr

/-- binary32 (R220). -/
def shF32 : Shape := ⟨true, 8, 23, 127, 1⟩
/-- binary16 (R220). -/
def shF16 : Shape := ⟨true, 5, 10, 15, 1⟩
/-- bfloat16 (R220). -/
def shBf16 : Shape := ⟨true, 8, 7, 127, 1⟩

/-- A shape word (R223). -/
def Shape.ofWord (w : W32) : Shape :=
  let n := w.toNat
  ⟨bitOf 0 n, field 3 1 n, field 6 4 n, signedOf 8 (field 14 7 n), field 16 15 n⟩

/-- The width of a code (R223). -/
def Shape.width (sh : Shape) : Nat := (if sh.sgn then 1 else 0) + sh.exp + sh.man

/-- A legal shape word: reserved bits zero, a width of 2 to 8, SPEC not 11 (R223, R95). -/
def shapeLegal (n : Nat) : Bool :=
  let sh := Shape.ofWord (BitVec.ofNat 32 n)
  decide (n < 2 ^ 17) && decide (2 ≤ sh.width) && decide (sh.width ≤ 8) && sh.spec != 3

/-- The width of a container of codes: 4 bits for a width up to 4, else 8 (R224). -/
def Shape.container (sh : Shape) : Nat := if sh.width ≤ 4 then 4 else 8

/-- has_inf (R224). -/
def Shape.hasInf (sh : Shape) : Bool := sh.spec == 1 && decide (1 ≤ sh.exp)
/-- has_nan, by SPEC 01 or SPEC 10 (R224). -/
def Shape.hasNan (sh : Shape) : Bool :=
  (sh.spec == 1 && decide (1 ≤ sh.exp) && decide (1 ≤ sh.man)) || (sh.spec == 2 && sh.sgn)

/-- The canonical NaN of a shape (R224). -/
def Shape.cnan (sh : Shape) : Nat :=
  if sh.spec = 2 then 2 ^ (sh.width - 1) else (2 ^ sh.exp - 1) * 2 ^ sh.man + 2 ^ (sh.man - 1)

/-- The code of maxfin without its sign: the highest code that is neither infinite nor NaN (R224). -/
def Shape.maxMag (sh : Shape) : Nat := if sh.hasInf then (2 ^ sh.exp - 1) * 2 ^ sh.man - 1 else 2 ^ (sh.exp + sh.man) - 1

/-- The sign's weight in a code. -/
def Shape.signBit (sh : Shape) (neg : Bool) : Nat := if neg && sh.sgn then 2 ^ (sh.width - 1) else 0

/-- The infinity code of a sign. -/
def Shape.infCode (sh : Shape) (neg : Bool) : Nat := sh.signBit neg + (2 ^ sh.exp - 1) * 2 ^ sh.man

/-- The code of maxfin with a sign. -/
def Shape.maxCode (sh : Shape) (neg : Bool) : Nat := sh.signBit neg + sh.maxMag

/-- decode of R225, NaNs of narrow shapes neither quiet nor signalling (R221). -/
def Shape.decode (sh : Shape) (c0 : Nat) : Val :=
  let c := c0 % 2 ^ sh.width
  let sg := sh.sgn && bitOf (sh.width - 1) c
  let e := c / 2 ^ sh.man % 2 ^ sh.exp
  let m := c % 2 ^ sh.man
  if sh.spec = 2 ∧ sh.sgn ∧ c = 2 ^ (sh.width - 1) then .nan false
  else if sh.spec = 1 ∧ 1 ≤ sh.exp ∧ e = 2 ^ sh.exp - 1 then (if m = 0 then .inf sg else .nan false)
  else if sh.exp = 0 then .fin sg m (-sh.bias)
  else if e = 0 then .fin sg m (1 - sh.bias - sh.man)
  else .fin sg (2 ^ sh.man + m) (e - sh.bias - sh.man)

/-- decode of an IEEE format: a NaN whose top mantissa bit is 0 is signalling (R221). -/
def Shape.decodeIeee (sh : Shape) (c : Nat) : Val :=
  match sh.decode c with
  | .nan _ => .nan (!bitOf (sh.man - 1) c)
  | v => v

/-- No flag. -/
def Flags.none : Flags := {}
/-- NV alone. -/
def Flags.invalid : Flags := { nv := true }
/-- SAT alone. -/
def Flags.saturated : Flags := { sat := true }
/-- SAT and NX, of a clamped encode (R226). -/
def Flags.clamped : Flags := { sat := true, nx := true }

/-- NV when a condition holds. -/
def Flags.nvIf (b : Bool) : Flags := { nv := b }

/-- The union of two sets of flags. -/
def Flags.or (a b : Flags) : Flags :=
  ⟨a.nv || b.nv, a.dz || b.dz, a.of || b.of, a.uf || b.uf, a.nx || b.nx, a.sat || b.sat⟩

/-- The union of many. -/
def Flags.join (l : List Flags) : Flags := l.foldl Flags.or {}

/-- The exponent of the leading bit of m × 2^e. -/
def topExp (m : Nat) (e : Int) : Int := (Nat.log2 m : Int) + e

/-- The exponent of q in encode (R226); an exact zero takes 1 − b. -/
def Shape.qExp (sh : Shape) (m : Nat) (e : Int) : Int :=
  if sh.exp = 0 then -sh.bias else (if m = 0 then 1 - sh.bias else max (topExp m e) (1 - sh.bias)) - sh.man

/-- pack of R226 without the sign, of n × 2^qe. -/
def Shape.magCode (sh : Shape) (n : Nat) (qe : Int) : Nat :=
  if sh.exp = 0 ∨ n = 0 then n
  else if topExp n qe < 1 - sh.bias then n
  else (topExp n qe + sh.bias).toNat * 2 ^ sh.man + (n * 2 ^ sh.man / 2 ^ Nat.log2 n - 2 ^ sh.man)

/-- m × 2^e in units of 2^qe: the floor, and how the rest compares with a half (0 exact, 1 below, 2 tie, 3 above). -/
def unitsOf (m : Nat) (e qe : Int) : Nat × Nat :=
  if qe ≤ e then (m <<< (e - qe).toNat, 0)
  else
    let k := (qe - e).toNat
    let r := m % 2 ^ k
    (m >>> k, if r = 0 then 0 else if 2 * r < 2 ^ k then 1 else if 2 * r = 2 ^ k then 2 else 3)

/-- encode of R226 of a finite nonnegative m × 2^e with sign `neg`. -/
def Shape.encodeFin (sh : Shape) (rz neg : Bool) (m : Nat) (e : Int) : Nat × Flags :=
  let qe := sh.qExp m e
  let (lo, rest) := unitsOf m e qe
  let up := !rz && (rest == 3 || (rest == 2 && sh.magCode lo qe % 2 == 1))
  let r := if up then lo + 1 else lo
  let nx := rest != 0
  let tiny := m != 0 && decide (topExp m e < (if sh.exp = 0 then -sh.bias else 1 - sh.bias))
  let f : Flags := { nx := nx, uf := tiny && nx }
  let code := sh.magCode r qe
  if sh.maxMag < code then
    if sh.hasInf then ((if rz then sh.maxCode neg else sh.infCode neg), f.or { of := true, nx := true })
    else (sh.maxCode neg, f.or Flags.clamped)
  else
    let neg' := neg && !(r == 0 && sh.spec == 2 && sh.sgn)
    (sh.signBit neg' + code, f)

/-- encode of R226: the code and the flags. -/
def Shape.encode (sh : Shape) (rz : Bool) : Val → Nat × Flags
  | .nan sig => if sh.hasNan then (sh.cnan, Flags.nvIf sig) else (0, Flags.invalid)
  | .inf neg =>
    if !sh.sgn && neg then (0, Flags.clamped)
    else if sh.hasInf then (sh.infCode neg, {}) else (sh.maxCode neg, Flags.clamped)
  | .fin neg m e =>
    if !sh.sgn && neg then (if m = 0 then (0, {}) else (0, Flags.clamped))
    else sh.encodeFin rz neg m e

/-! ## Exact arithmetic -/

/-- Whether a value is a signalling NaN. -/
def Val.signalling : Val → Bool
  | .nan s => s
  | _ => false

/-- Whether a value is a NaN. -/
def Val.isNan : Val → Bool
  | .nan _ => true
  | _ => false

/-- The sign of a value; a NaN has none. -/
def Val.neg? : Val → Bool
  | .nan _ => false
  | .inf n => n
  | .fin n _ _ => n

/-- The value with its sign flipped. -/
def Val.negate : Val → Val
  | .nan s => .nan s
  | .inf n => .inf !n
  | .fin n m e => .fin (!n) m e

/-- The value of an integer. -/
def Val.ofInt (x : Int) : Val := .fin (decide (x < 0)) x.natAbs 0

/-- The exact signed integer of m × 2^(e−lo), lo ≤ e. -/
def scaled (neg : Bool) (m : Nat) (e lo : Int) : Int :=
  let n : Int := ((m <<< (e - lo).toNat : Nat) : Int)
  if neg then -n else n

/-- The exact sum of two values, with the invalid mark of ∞ − ∞ and of a signalling operand; an exact zero follows R227. -/
def Val.add (x y : Val) : Val × Bool :=
  match x, y with
  | .nan a, b => (.nan false, a || b.signalling)
  | _, .nan b => (.nan false, b)
  | .inf a, .inf b => if a = b then (.inf a, false) else (.nan false, true)
  | .inf a, _ => (.inf a, false)
  | _, .inf b => (.inf b, false)
  | .fin n m e, .fin n' m' e' =>
    let lo := min e e'
    let t := scaled n m e lo + scaled n' m' e' lo
    (.fin (if t = 0 then n && n' && m == 0 && m' == 0 else decide (t < 0)) t.natAbs lo, false)

/-- The exact product, with the invalid mark of 0 × ∞ and of a signalling operand. -/
def Val.mul (x y : Val) : Val × Bool :=
  match x, y with
  | .nan a, b => (.nan false, a || b.signalling)
  | _, .nan b => (.nan false, b)
  | .inf a, .inf b => (.inf (a != b), false)
  | .inf a, .fin n m _ => if m = 0 then (.nan false, true) else (.inf (a != n), false)
  | .fin n m _, .inf b => if m = 0 then (.nan false, true) else (.inf (b != n), false)
  | .fin n m e, .fin n' m' e' => (.fin (n != n') (m * m') (e + e'), false)

/-- The exact x × y + d; 0 × ∞ is invalid whatever d is (R230). -/
def Val.fma (x y d : Val) : Val × Bool :=
  let (p, i) := x.mul y
  let (r, j) := p.add d
  (r, i || j)

/-- A total order of values other than NaN with −0 below +0: the exact integer order of scaled values. -/
def Val.lessTotal : Val → Val → Bool
  | .inf true, .inf true => false
  | .inf true, _ => true
  | _, .inf true => false
  | .inf false, _ => false
  | _, .inf false => true
  | .fin n m e, .fin n' m' e' =>
    let lo := min e e'
    let a := scaled n m e lo
    let b := scaled n' m' e' lo
    decide (a < b) || (a == b && m == 0 && n && !n')
  | _, _ => false

/-- Whether a value is zero. -/
def Val.isZero : Val → Bool
  | .fin _ 0 _ => true
  | _ => false

/-- Numeric equality: −0 equals +0, a NaN equals nothing. -/
def Val.eqv (x y : Val) : Bool :=
  if x.isNan || y.isNan then false else (x.isZero && y.isZero) || (!x.lessTotal y && !y.lessTotal x)

/-- Numeric less-than; false for a NaN. -/
def Val.lt (x y : Val) : Bool := if x.isNan || y.isNan then false else !(x.isZero && y.isZero) && x.lessTotal y

/-- min with −0 below +0; a NaN operand gives a NaN, and NV only for a signalling one (R78, R104). -/
def Val.min2 (x y : Val) : Val × Bool :=
  if x.isNan || y.isNan then (.nan false, x.signalling || y.signalling) else (if y.lessTotal x then y else x, false)

/-- max with −0 below +0 (R78, R104). -/
def Val.max2 (x y : Val) : Val × Bool :=
  if x.isNan || y.isNan then (.nan false, x.signalling || y.signalling) else (if x.lessTotal y then y else x, false)

/-- Encode an exact result that may be invalid. -/
def Shape.round (sh : Shape) (rz : Bool) (r : Val × Bool) : Nat × Flags :=
  let (c, f) := sh.encode rz r.1
  (c, f.or (Flags.nvIf r.2))

/-! ## Integers -/

/-- Sat to a range (R222): the value and whether it changed. -/
def satInt (lo hi x : Int) : Int × Bool := if x < lo then (lo, true) else if hi < x then (hi, true) else (x, false)

/-- Sat to a signed width, as a pattern of that width. -/
def satSigned (w : Nat) (x : Int) : Nat × Flags :=
  let (r, c) := satInt (-2 ^ (w - 1)) (2 ^ (w - 1) - 1) x
  (wrapNat w r, { sat := c })

/-- A finite m × 2^e rounded to an integer, to nearest even or toward zero, with its inexactness. -/
def roundInt (rz neg : Bool) (m : Nat) (e : Int) : Int × Bool :=
  let (lo, rest) := unitsOf m e 0
  let up := !rz && (rest == 3 || (rest == 2 && lo % 2 == 1))
  let n : Int := ((if up then lo + 1 else lo : Nat) : Int)
  (if neg then -n else n, rest != 0)

/-! ## Functions whose results are no dyadics

Each gives a dyadic that lies on the same side of every rounding boundary as the exact value: enough leading bits, with the
lowest bit set when the value is not exact. -/

/-- A mantissa with a sticky low bit. -/
def sticky (m : Nat) (exact : Bool) : Nat := 2 * m + (if exact then 0 else 1)

/-- The integer square root from its k low bits down, the rest of it being r. -/
def isqrtFrom : Nat → Nat → Nat → Nat
  | 0, _, r => r
  | k + 1, n, r => isqrtFrom k n (if (r + 2 ^ k) * (r + 2 ^ k) ≤ n then r + 2 ^ k else r)

/-- The integer square root. -/
def isqrt (n : Nat) : Nat := isqrtFrom (Nat.log2 n / 2 + 1) n 0

/-- √(m × 2^e). -/
def sqrtFin (m : Nat) (e : Int) : Val :=
  let (m, e) := if e % 2 = 0 then (m, e) else (2 * m, e - 1)
  let n := m <<< 128
  let r := isqrt n
  .fin false (sticky r (r * r == n)) (e / 2 - 65)

/-- 1 ÷ (m × 2^e), m ≠ 0. -/
def rcpFin (neg : Bool) (m : Nat) (e : Int) : Val :=
  let k := Nat.log2 m + 100
  .fin neg (sticky (2 ^ k / m) (2 ^ k % m == 0)) (-e - k - 1)

/-- 1 ÷ √(m × 2^e), m ≠ 0. -/
def rsqFin (m : Nat) (e : Int) : Val :=
  let (m, e) := if e % 2 = 0 then (m, e) else (2 * m, e - 1)
  let k := Nat.log2 m + 100
  let r := isqrt (2 ^ (2 * k) / m)
  .fin false (sticky r (r * r * m == 2 ^ (2 * k))) (-(e / 2) - k - 1)

/-- ln 2 × 2^256, truncated. -/
def ln2Fixed : Nat := 80260960185991308862233904206310070533990667611589946606122867505419956976171

/-- Σ y^k/k! by Horner's rule in units of 2^−256, for 0 ≤ y < 1. -/
def expFixed (y : Nat) : Nat → Nat → Nat
  | 0, acc => acc
  | k + 1, acc => expFixed y k (2 ^ 256 + acc * y / 2 ^ 256 / (k + 1))

/-- 2^x for finite nonzero x: exact for an integer x, else correct to far below any rounding boundary of binary32.
[DESIGN CHOICE: log 14] -/
def exp2Fin (neg : Bool) (m : Nat) (e : Int) : Val :=
  if 20 ≤ topExp m e then (if neg then .fin false 1 (-100000) else .fin false 1 100000)
  else
    -- x in units of 2^−256, truncated for tiny x to at least one unit
    let (u, _) := unitsOf m e (-256)
    let x : Int := if neg then -(u : Int) else u
    let n := x / 2 ^ 256
    let f := (x % 2 ^ 256).toNat
    if f = 0 then .fin false 1 n
    else .fin false (sticky (expFixed (f * ln2Fixed / 2 ^ 256) 70 (2 ^ 256)) false) (n - 257)

/-- The bits of log2 y for y in [1, 2) in units of 2^−256, by repeated squaring. -/
def log2Bits : Nat → Nat → Nat → Nat
  | 0, _, acc => acc
  | k + 1, y, acc =>
    let z := y * y / 2 ^ 256
    if 2 ^ 257 ≤ z then log2Bits k (z / 2) (2 * acc + 1) else log2Bits k z (2 * acc)

/-- log2 (m × 2^e), m ≠ 0: exact for a power of two. -/
def log2Fin (m : Nat) (e : Int) : Val :=
  let t := topExp m e
  if m = 2 ^ Nat.log2 m then Val.ofInt t
  else
    let y := m * 2 ^ 256 / 2 ^ Nat.log2 m
    let frac : Int := ((log2Bits 120 y 0 : Nat) : Int)
    let v : Int := 2 * (t * 2 ^ 120 + frac) + 1
    .fin (decide (v < 0)) v.natAbs (-121)

end Sys2Proof.Machine
end

