-- ==== Sys2Proof/Machine/Flags.lean ====
section
/-! DEFINITION. KSTATUS as a word (R18): the sticky flags, STRICT and MODE, how SETSR, trap entry and TRET write it, and the flags
of the operations whose rule names them (R74, R230). -/

namespace Sys2Proof.Machine

/-- A bit as a number. -/
def bit (b : Bool) : Nat := if b then 1 else 0

/-- The word that flags, STRICT and MODE make (R18). -/
def statusWord (f : Flags) (strict mode : Bool) : W64 :=
  BitVec.ofNat 64 (bit f.sat <<< 15 ||| bit f.nx <<< 14 ||| bit f.uf <<< 13 ||| bit f.of <<< 12 ||| bit f.dz <<< 11 |||
    bit f.nv <<< 10 ||| bit strict <<< 1 ||| bit mode)

/-- The flags of a word (R18). -/
def Flags.ofWord (w : W64) : Flags :=
  let n := w.toNat
  ⟨bitOf 10 n, bitOf 11 n, bitOf 12 n, bitOf 13 n, bitOf 14 n, bitOf 15 n⟩

/-- KSTATUS (R18). -/
def Core.kstatus (c : Core) : W64 := statusWord c.flags c.strict c.mode

/-- A SETSR of KSTATUS writes the flags and STRICT, and ignores MODE and the reserved bits; flags raised since its issue are ORed into
the written value (R94). [DEDUCED: log 127] -/
def Core.setStatus (c : Core) (w : W64) : Core := { c with flags := (Flags.ofWord w).or c.since, strict := bitOf 1 w.toNat }

/-- Flags are ORed into KSTATUS, and into what a SETSR on its way will write (R94, R101, R231). -/
def Core.raise (c : Core) (f : Flags) : Core := { c with flags := c.flags.or f, since := c.since.or f }

/-- KSAVE is malformed where bits [63:16] or [9:2] are not zero (R89). -/
def saveMalformed (w : W64) : Bool := field 63 16 w.toNat != 0 || field 9 2 w.toNat != 0

/-- KSTATUS after TRET: KSAVE with MODE 0, each flag the OR of its values in KSAVE and KSTATUS (R89). -/
def Core.restoreStatus (c : Core) : Core :=
  { c with flags := c.flags.or (Flags.ofWord c.ksave), strict := bitOf 1 c.ksave.toNat, mode := false }

/-- DZ alone: DIV or REM by zero (R74). -/
def Flags.divZero : Flags := { dz := true }

end Sys2Proof.Machine
end

