-- ==== Sys2Proof/Machine/Sparse.lean ====
section
/-! DEFINITION. Sparse maps: lists of (key, value) with rising keys that list no default. One form for registers, lanes, tile
elements and bytes; equal maps are equal lists. -/

namespace Sys2Proof.Machine

/-- The value at a key; an unlisted key holds the default. -/
def Sparse.get {α : Type} (d : α) : List (Nat × α) → Nat → α
  | [], _ => d
  | (k, v) :: rest, n => if k = n then v else Sparse.get d rest n

/-- The map with one key removed. -/
def Sparse.del {α : Type} (l : List (Nat × α)) (n : Nat) : List (Nat × α) := l.filter fun kv => kv.1 != n

/-- The map with one key given a value that is not the default. -/
def Sparse.put {α : Type} : List (Nat × α) → Nat → α → List (Nat × α)
  | [], n, x => [(n, x)]
  | (k, v) :: rest, n, x =>
    if k < n then (k, v) :: Sparse.put rest n x else if k = n then (k, x) :: rest else (n, x) :: (k, v) :: rest

/-- The map after a write; writing the default removes the entry. -/
def Sparse.set {α : Type} [DecidableEq α] (d : α) (l : List (Nat × α)) (n : Nat) (x : α) : List (Nat × α) :=
  if x = d then Sparse.del l n else Sparse.put l n x

/-- Several writes, the first applied first. -/
def Sparse.setAll {α : Type} [DecidableEq α] (d : α) (l : List (Nat × α)) (kvs : List (Nat × α)) : List (Nat × α) :=
  kvs.foldl (fun l kv => Sparse.set d l kv.1 kv.2) l

/-- The entries of a range of keys, [lo, hi). -/
def Sparse.range {α : Type} (l : List (Nat × α)) (lo hi : Nat) : List (Nat × α) :=
  l.filter fun kv => decide (lo ≤ kv.1) && decide (kv.1 < hi)

/-- The map with a range of keys, [lo, hi), back at the default. -/
def Sparse.clear {α : Type} (l : List (Nat × α)) (lo hi : Nat) : List (Nat × α) :=
  l.filter fun kv => !(decide (lo ≤ kv.1) && decide (kv.1 < hi))

/-- Canonical: keys rise strictly from above `lo`, and no value is the default. -/
def Sparse.wfFrom {α : Type} [DecidableEq α] (d : α) : Option Nat → List (Nat × α) → Bool
  | _, [] => true
  | lo, (k, v) :: rest => (match lo with | none => true | some p => decide (p < k)) && decide (v ≠ d) && Sparse.wfFrom d (some k) rest

/-- The canonical form of a sparse map. -/
def Sparse.wf {α : Type} [DecidableEq α] (d : α) (l : List (Nat × α)) : Bool := Sparse.wfFrom d none l

/-- The canonical form of memory: unlisted addresses read as zero. -/
def Memory.wf (m : List Host.Cell) : Bool := Sparse.wf 0 m

/-- The bytes of a natural number, least significant first (R2). -/
def bytesOf : Nat → Nat → List Byte
  | 0, _ => []
  | n + 1, x => BitVec.ofNat 8 (x % 256) :: bytesOf n (x / 256)

/-- The number that bytes hold, least significant first (R2). -/
def natOf : List Byte → Nat
  | [] => 0
  | b :: rest => b.toNat + 256 * natOf rest

end Sys2Proof.Machine
end

