-- ==== Sys2Proof/Machine/Ops.lean ====
section
/-! DEFINITION. The named operations over registers, pool, memory, agenda, journal and loop buffer; the shore log, rollback,
taking a trap and returning from one; context faults and stopping a kernel. -/

namespace Sys2Proof.Machine

/-! ## The partition word (R19, R20) -/

/-- RF of a partition word. -/
def partRf (w : W32) : Nat := field 5 0 w.toNat
/-- ACC. -/
def partAcc (w : W32) : Nat := field 10 6 w.toNat
/-- SHORE. -/
def partShore (w : W32) : Nat := field 13 11 w.toNat
/-- GATE. -/
def partGate (w : W32) : Nat := field 19 14 w.toNat
/-- The first scratchpad bank. -/
def partBase (w : W32) : Nat := partRf w + partAcc w + partShore w
/-- S, the scratchpad units (R20). -/
def partScratch (w : W32) : Nat := 48 - partRf w - partAcc w - partShore w - partGate w
/-- The word breaks no rule of R20 and no reserved bit is set. -/
def partLegal (w : W32) : Bool :=
  field 31 20 w.toNat == 0 && decide (4 ≤ partRf w) && decide (partRf w ≤ 32) && decide (partAcc w ≤ 16) &&
    decide (1 ≤ partShore w) && decide (partShore w ≤ 4) && decide (partRf w + partAcc w + partShore w + partGate w ≤ 48)

/-- Bytes of a bank. -/
def bankBytes : Nat := 262144

/-- Whether a byte of the whole pool lies in a gated bank of a core bound to no kernel, which streamed mode addresses flat (R217, R389). -/
def Core.gated (c : Core) (a : Nat) : Bool := c.kernel == 0 && decide ((48 - partGate c.partword) * bankBytes ≤ a)

/-! ## Registers (R13) -/

/-- s[n]; s0 reads as zero. -/
def Core.rs (c : Core) (n : Nat) : W64 := if n = 0 then 0 else Sparse.get 0 c.s n
/-- p[n]; p0 is true. -/
def Core.rp (c : Core) (n : Nat) : Bool := if n = 0 then true else Sparse.get false c.p n
/-- q[n]; q0 is all ones. -/
def Core.rq (c : Core) (n : Nat) : BitVec 128 := if n = 0 then BitVec.allOnes 128 else Sparse.get 0 c.q n
/-- a[n]. -/
def Core.ra (c : Core) (n : Nat) : W64 := Sparse.get 0 c.a n
/-- h[n]. -/
def Core.rh (c : Core) (n : Nat) : W64 := Sparse.get 0 c.h n
/-- lc[n]. -/
def Core.rlc (c : Core) (n : Nat) : W32 := Sparse.get 0 c.lc n
/-- The shape word a format register holds where no `.format` names it (R35). -/
def defaultShape : W32 := 0x3B9
/-- fm[n]. -/
def Core.rfm (c : Core) (n : Nat) : W32 := Sparse.get defaultShape c.fm n
/-- t[n]. -/
def Core.rt (c : Core) (n : Nat) : Token := Sparse.get {} c.tok n
/-- c[n]. -/
def Core.rc (c : Core) (n : Nat) : Handle := Sparse.get {} c.hnd n
/-- Lane l of v[n]; in a gated bank it reads zero. -/
def Core.rv (c : Core) (n l : Nat) : W32 := if c.gated (n * 512) then 0 else Sparse.get 0 c.v (n * 128 + l)
/-- Element i of tile z[n]; in a gated bank it reads zero. -/
def Core.rz (c : Core) (n i : Nat) : W32 :=
  if c.gated (partRf c.partword * bankBytes + n * 16384) then 0 else Sparse.get 0 c.z (n * 4096 + i)

/-- An s register written; s0 ignores writes. -/
def Core.ws (c : Core) (n : Nat) (x : W64) : Core := if n = 0 then c else { c with s := Sparse.set 0 c.s n x }
/-- A p register written; p0 ignores writes. -/
def Core.wp (c : Core) (n : Nat) (x : Bool) : Core := if n = 0 then c else { c with p := Sparse.set false c.p n x }
/-- The bits of a q register under a mask written; q0 ignores writes. -/
def Core.wq (c : Core) (n : Nat) (mask x : BitVec 128) : Core :=
  if n = 0 then c else { c with q := Sparse.set 0 c.q n ((c.rq n &&& ~~~mask) ||| (x &&& mask)) }
/-- An a register written; bits [63:46] are ignored (R14). -/
def Core.wa (c : Core) (n : Nat) (x : W64) : Core :=
  { c with a := Sparse.set 0 c.a n (BitVec.ofNat 64 (x.toNat % 2 ^ 46)) }
/-- An h register written. -/
def Core.wh (c : Core) (n : Nat) (x : W64) : Core := { c with h := Sparse.set 0 c.h n x }
/-- A loop counter written. -/
def Core.wlc (c : Core) (n : Nat) (x : W32) : Core := { c with lc := Sparse.set 0 c.lc n x }
/-- A format register written. -/
def Core.wfm (c : Core) (n : Nat) (x : W32) : Core := { c with fm := Sparse.set defaultShape c.fm n x }
/-- A token written. -/
def Core.wt (c : Core) (n : Nat) (x : Token) : Core := { c with tok := Sparse.set {} c.tok n x }
/-- A handle written. -/
def Core.wc (c : Core) (n : Nat) (x : Handle) : Core := { c with hnd := Sparse.set {} c.hnd n x }

/-! ## Address registers (R14) -/

/-- OFF. -/
def aOff (x : W64) : Nat := field 23 0 x.toNat
/-- BUF. -/
def aBuf (x : W64) : Nat := field 31 24 x.toNat
/-- BANK. -/
def aBank (x : W64) : Nat := field 39 32 x.toNat
/-- NB. -/
def aNb (x : W64) : Nat := field 45 40 x.toNat
/-- The register with its OFF field replaced, mod 2^24. -/
def aWithOff (x : W64) (off : Nat) : W64 := BitVec.ofNat 64 (x.toNat / 2 ^ 24 % 2 ^ 40 * 2 ^ 24 + off % 2 ^ 24)

/-! ## The pool (R21, R22) -/

/-- The smallest power of two not less than n, for n up to 2^24. -/
def pow2Above (n : Nat) : Nat := if n ≤ 1 then n else 2 ^ (Nat.log2 (n - 1) + 1)

/-- R22: where a byte of the scratchpad stands, as an offset into the whole pool; none for padding or an empty allocation. A core
bound to no kernel is addressed flat, as streamed mode addresses it (R217), and the banks that its last kernel left gated hold no data
(R389). -/
def placeIn (bound : Bool) (w : W32) (off : Nat) : Option Nat :=
  if !bound then (if off < (48 - partGate w) * bankBytes then some off else none)
  else
    let a := partScratch w * bankBytes
    if a = 0 then none
    else
      let e := off % pow2Above a
      if a ≤ e then none else some (partBase w * bankBytes + e)

/-- R22 on a core. -/
def Core.place (c : Core) (off : Nat) : Option Nat := placeIn (c.kernel != 0) c.partword (off % 2 ^ 24)

/-- A byte of the scratchpad; padding reads zero. -/
def Core.poolByte (c : Core) (off : Nat) : Byte :=
  match c.place off with
  | some k => Sparse.get 0 c.pool k
  | none => 0

/-- `n` bytes from an offset, each placed on its own. -/
def Core.poolBytes (c : Core) (off n : Nat) : List Byte := (List.range n).map fun i => c.poolByte (off + i)

/-- `n` bytes from an offset as a number. -/
def Core.poolNat (c : Core) (off n : Nat) : Nat := natOf (c.poolBytes off n)

/-- A byte of the pool as an S- or V-slot access reads it: of one that an access under way at the pool has yet to write, the old or the
new value, each byte on its own (R208, R263). [DESIGN CHOICE: log 172] -/
def Core.slotByte (c : Core) (off : Nat) : Byte :=
  ((c.racing.find? fun x => some x.1 == c.place off).map (·.2)).getD (c.poolByte off)

/-- Bytes of the pool as a number, as a slot access reads them. -/
def Core.slotNat (c : Core) (off n : Nat) : Nat := natOf ((List.range n).map fun i => c.slotByte (off + i))

/-- Bytes at consecutive offsets. -/
def cellsAt (off : Nat) (bs : List Byte) : List (Nat × Byte) := bs.mapIdx fun i b => (off + i, b)

/-! ## The shore log (R339, R340) -/

/-- Whether a core logs: it runs a kernel in kernel mode (R338). [DEDUCED: log 103] -/
def Core.logs (c : Core) : Bool := c.kernel != 0 && !c.mode

/-- Bytes of a record: a 16-byte header and its data padded to 16 (R339). -/
def LogRec.size : LogRec → Nat
  | .vreg _ _ _ => 528
  | .tile _ _ _ => 16400
  | .granule _ _ _ => 528
  | .staged _ _ len _ _ => 16 + ceilDiv len 16 * 16

/-- The interval a record was made in. -/
def LogRec.ivl : LogRec → Nat
  | .vreg i _ _ => i
  | .tile i _ _ => i
  | .granule i _ _ => i
  | .staged i _ _ _ _ => i

/-- The header of a record under a partition word: LEN, OFF, NAME, KIND and IVL (R339). -/
def LogRec.header (w : W32) (r : LogRec) : BitVec 128 :=
  let pack (len off name kind : Nat) : BitVec 128 := BitVec.ofNat 128
    ((len % 2 ^ 24) <<< 80 ||| (off % 2 ^ 24) <<< 56 ||| (name % 2 ^ 16) <<< 40 ||| kind <<< 36 ||| r.ivl % 2 ^ 32)
  match r with
  | .vreg _ n _ => pack 512 0 n 1
  | .tile _ n _ => pack 16384 0 n 2
  | .granule _ n _ => pack 512 (n * 512 - partBase w * bankBytes) 0 3
  | .staged _ _ len off name => pack len off name 4

/-- Bytes of the log. -/
def Core.logBytes (c : Core) : Nat := c.log.foldl (fun n r => n + r.size) 0

/-- Bytes of staged records of earlier intervals, which stay until they are drained (R152, R339). -/
def Core.undrained (c : Core) : Nat := (c.log.filter fun r => r.ivl != c.interval).foldl (fun n r => n + r.size) 0

/-- SHORE-OVERFLOW: the records of this interval and the undrained staged bytes of the last one do not fit (R340). -/
def Core.logFull (c : Core) : Bool := c.kernel != 0 && decide (partShore c.partword * bankBytes < c.logBytes)

/-- A log without the staged bytes of an operation, which have been drained (R339). -/
def dropStaged (op : Nat) (log : List LogRec) : List LogRec :=
  log.filter fun r => match r with | .staged _ id _ _ _ => id != op | _ => true

/-- Whether the log holds a register's record. -/
def Core.logHasV (c : Core) (n : Nat) : Bool := c.log.any fun r => match r with | .vreg _ m _ => m == n | _ => false
/-- Whether the log holds a tile's record. -/
def Core.logHasZ (c : Core) (n : Nat) : Bool := c.log.any fun r => match r with | .tile _ m _ => m == n | _ => false
/-- Whether the log holds a granule's record. -/
def Core.logHasG (c : Core) (n : Nat) : Bool := c.log.any fun r => match r with | .granule _ m _ => m == n | _ => false

/-- The record of the first write to a v register. -/
def Core.logV (c : Core) (n : Nat) : Core :=
  if c.logs && !c.logHasV n then { c with log := .vreg c.interval n (Sparse.range c.v (n * 128) (n * 128 + 128)) :: c.log } else c
/-- The record of the first write to a tile. -/
def Core.logZ (c : Core) (n : Nat) : Core :=
  if c.logs && !c.logHasZ n then { c with log := .tile c.interval n (Sparse.range c.z (n * 4096) (n * 4096 + 4096)) :: c.log } else c
/-- The record of the first write to a 512-byte granule, by its number in the pool. -/
def Core.logG (c : Core) (n : Nat) : Core :=
  if c.logs && !c.logHasG n then { c with log := .granule c.interval n (Sparse.range c.pool (n * 512) (n * 512 + 512)) :: c.log } else c

/-- Lanes of v[n] written, logged first; in a gated bank the write is discarded (R389). [DEDUCED: log 34] -/
def Core.wv (c : Core) (n : Nat) (lanes : List (Nat × W32)) : Core :=
  if c.gated (n * 512) then c else
  let c := c.logV n
  { c with v := Sparse.setAll 0 c.v (lanes.map fun x => (n * 128 + x.1, x.2)) }
/-- Elements of z[n] written, logged first; in a gated bank the write is discarded (R389). -/
def Core.wz (c : Core) (n : Nat) (elems : List (Nat × W32)) : Core :=
  if c.gated (partRf c.partword * bankBytes + n * 16384) then c else
  let c := c.logZ n
  { c with z := Sparse.setAll 0 c.z (elems.map fun x => (n * 4096 + x.1, x.2)) }

/-- One scratchpad byte written by this core, logged first; padding discards the write (R22). -/
def Core.poolPut (c : Core) (kv : Nat × Byte) : Core :=
  match c.place kv.1 with
  | none => c
  | some k => let c := c.logG (k / 512); { c with pool := Sparse.set 0 c.pool k kv.2 }

/-- Bytes written in order by this core's slots or engines. -/
def Core.poolWrite (c : Core) (kvs : List (Nat × Byte)) : Core := kvs.foldl Core.poolPut c

/-- A granule's record after a write that no rollback undoes: what it puts back holds the byte written (R341). -/
def LogRec.keep (k : Nat) (b : Byte) : LogRec → LogRec
  | .granule i n old => if k / 512 = n then .granule i n (Sparse.set 0 old k b) else .granule i n old
  | r => r

/-- Bytes written by another agent: not logged, and no rollback undoes them (R341). -/
def Core.poolWriteRemote (c : Core) (kvs : List (Nat × Byte)) : Core :=
  kvs.foldl (fun c kv => match c.place kv.1 with
    | none => c
    | some k => { c with pool := Sparse.set 0 c.pool k kv.2, log := c.log.map (LogRec.keep k kv.2) }) c

/-- Bytes written by an operation of this core: one that was issued before the last brace goes on through a rollback, so its bytes are
logged as a first write (R339) and kept by the record (R343). [DEDUCED: log 128] -/
def Core.poolWriteOf (c : Core) (op : Nat) (kvs : List (Nat × Byte)) : Core :=
  if c.brace.firstOp ≤ op then c.poolWrite kvs
  else (kvs.foldl (fun (c : Core) kv => match c.place kv.1 with | some k => c.logG (k / 512) | none => c) c).poolWriteRemote kvs

/-- Elements of a tile written by an operation of this core, as `Core.poolWriteOf`. [DEDUCED: log 128] -/
def Core.wzOf (c : Core) (op n : Nat) (elems : List (Nat × W32)) : Core :=
  let d := c.wz n elems
  if c.brace.firstOp ≤ op then d
  else { d with log := d.log.map fun r => match r with
    | .tile i m old => if m = n then .tile i m (Sparse.setAll 0 old (elems.map fun x => (n * 4096 + x.1, x.2))) else r
    | r => r }

/-- One record undone. -/
def Core.undo (c : Core) : LogRec → Core
  | .vreg _ n old => { c with v := c.v.filter (fun x => decide (x.1 < n * 128)) ++ old ++ c.v.filter (fun x => decide (n * 128 + 128 ≤ x.1)) }
  | .tile _ n old => { c with z := c.z.filter (fun x => decide (x.1 < n * 4096)) ++ old ++ c.z.filter (fun x => decide (n * 4096 + 4096 ≤ x.1)) }
  | .granule _ n old => { c with pool := c.pool.filter (fun x => decide (x.1 < n * 512)) ++ old ++ c.pool.filter (fun x => decide (n * 512 + 512 ≤ x.1)) }
  | .staged _ _ _ _ _ => c

/-! ## Results on their way (R72, R100, R102) -/

/-- A result that lands `lat` unfrozen cc after issue. -/
def Core.later (c : Core) (sl : Slot) (lat : Nat) (dst : List Dst) (f : Flags := {}) : Core :=
  { c with pend := c.pend ++ [⟨c.clk + lat, sl, dst, f⟩] }

/-- One destination written. -/
def Core.write (c : Core) : Dst → Core
  | .s n x => c.ws n x
  | .p n x => c.wp n x
  | .q n m x => c.wq n m x
  | .a n x => c.wa n x
  | .h n x => c.wh n x
  | .ref n x => c.wh n x
  | .lc n x => c.wlc n x
  | .fm n x => c.wfm n x
  | .v n l => c.wv n l
  | .z n l => c.wz n l
  | .kstatus x => c.setStatus x
  | .ksave x => { c with ksave := x }
  | .ftb x => { c with ftb := x }
  | .ftsel x => { c with ftsel := x }
  | .kest x => { c with kest := x }

/-- A destination written by a result that handler mode left on its way: it is not logged, and it stands in the brace copies too, so that no
rollback undoes it (R338). -/
def Core.writeKept (c : Core) (d : Dst) : Core :=
  let n := ({ c with mode := true } : Core).write d
  let b := c.brace
  let k := ({ c with mode := true, s := b.s, p := b.p, q := b.q, a := b.a, h := b.h, lc := b.lc, fm := b.fm, strict := b.strict, kest := b.kest,
                     ftb := b.ftb, ftsel := b.ftsel } : Core).write d
  { n with mode := c.mode,
           brace := { b with s := k.s, p := k.p, q := k.q, a := k.a, h := k.h, lc := k.lc, fm := k.fm, strict := k.strict, kest := k.kest,
                             ftb := k.ftb, ftsel := k.ftsel } }

/-- A result lands, with its flags. -/
def Core.land (c : Core) (p : Pending) : Core := (p.dst.foldl Core.write c).raise p.flags
/-- One that handler mode left on its way lands. -/
def Core.landKept (c : Core) (p : Pending) : Core := (p.dst.foldl Core.writeKept c).raise p.flags

/-- The results of some slots that are due land in the order of issue, with their flags. -/
def Core.landDue (c : Core) (sel : Slot → Bool) : Core :=
  let now (p : Pending) : Bool := sel p.slot && decide (p.due ≤ c.clk)
  let left := c.left.filter now
  let due := c.pend.filter now
  due.foldl Core.land (left.foldl Core.landKept { c with left := c.left.filter fun p => !now p, pend := c.pend.filter fun p => !now p })

/-- Every result that handler mode left on its way lands at once. [DEDUCED: log 173] -/
def Core.settleLeft (c : Core) : Core := c.left.foldl Core.landKept { c with left := [] }

/-- Whether a destination is a write to a register, as R203's cause 1 asks. -/
def Dst.hits (d : Dst) (r : RegName) : Bool :=
  match d, r.fam with
  | .s n _, .s => n == r.idx
  | .p n _, .p => n == r.idx
  | .q n _ _, .q => n == r.idx
  | .a n _, .a => n == r.idx
  | .h n _, .h => n == r.idx
  | .ref n _, .h => n == r.idx
  | .lc n _, .lc => n == r.idx
  | .fm n _, .fm => n == r.idx
  | .v n _, .v => n == r.idx
  | _, _ => false

/-- A write to a register is pending; one to s0, p0 or q0 is ignored and never is (R13, R61). [DEDUCED: log 100] -/
def Core.pending (c : Core) (r : RegName) : Bool := !r.ignored && (c.left ++ c.pend).any fun p => p.dst.any fun d => d.hits r

/-- A tile is being written by a VZWR (R100, R124). -/
def Core.zPending (c : Core) (n : Nat) : Bool :=
  (c.left ++ c.pend).any fun p => p.dst.any fun d => match d with | .z m _ => m == n | _ => false

/-! ## Cores of the module -/

/-- The state with a function applied to the core in focus. -/
def State.mapCore (s : State) (f : Core → Core) : State := { s with core := f s.core }

/-- A core among the peers. -/
def peerOf (ps : List Core) (ref : Nat) : Option Core := ps.find? fun c => c.ref == ref

/-- A core of the module; one that is not listed is blank. -/
def State.coreAt (s : State) (ref : Nat) : Core :=
  if s.core.ref = ref then s.core else (peerOf s.peers ref).getD (Core.blank ref)

/-- A peer put in its place: rising references. -/
def insertCore : List Core → Core → List Core
  | [], c => [c]
  | d :: rest, c => if d.ref < c.ref then d :: insertCore rest c else if d.ref = c.ref then c :: rest else c :: d :: rest

/-- The state with a function applied to one core of the module. -/
def State.onCore (s : State) (ref : Nat) (f : Core → Core) : State :=
  if s.core.ref = ref then s.mapCore f else { s with peers := insertCore s.peers (f (s.coreAt ref)) }

/-- The state with another core in focus. -/
def State.focus (s : State) (ref : Nat) : State :=
  if s.core.ref = ref then s
  else
    let c := s.coreAt ref
    { s with core := c, peers := insertCore (s.peers.filter fun d => d.ref != ref) s.core }

/-- The bay of a core reference (R9). -/
def bayOf (ref : Nat) : Nat := ref / 192
/-- COREID of a core reference (R9). -/
def coreIdOf (ref : Nat) : Nat := ref % 192

/-- The time. -/
def State.now (s : State) : Nat := s.mcyc.toNat

/-! ## Free values and the agenda -/

/-- The next free value of a kind. -/
def State.free (s : State) (f : Nat → Nat) : Nat × State := (f s.fresh, { s with fresh := s.fresh + 1 })

/-- An entry of the agenda put after those that are due no later. -/
def insertDue : List Due → Due → List Due
  | [], d => [d]
  | e :: rest, d => if e.at_ ≤ d.at_ then e :: insertDue rest d else d :: e :: rest

/-- A step due `delay` cc from now. -/
def State.after (s : State) (delay : Nat) (core : Option Nat) (ev : Instr) : State :=
  { s with agenda := insertDue s.agenda ⟨s.now + delay, core, ev⟩ }

/-- A message on the fabric: it arrives after a free time (R396). -/
def State.send (s : State) (core : Option Nat) (ev : Instr) : State :=
  let (d, s) := s.free Config.transit
  s.after d core ev

/-- A message to another module. -/
def State.emit (s : State) (ev : Instr) : State := { s with outbox := s.outbox ++ [ev] }

/-! ## Kernels, contexts and the command journal -/

/-- A launched kernel by the journal number of its LAUNCH. -/
def State.kernel? (s : State) (seq : Nat) : Option Kernel := s.kernels.find? fun k => k.seq == seq

/-- The kernel of the core in focus. -/
def State.mine (s : State) : Option Kernel := s.kernel? s.core.kernel

/-- The state with a kernel changed. -/
def State.onKernel (s : State) (seq : Nat) (f : Kernel → Kernel) : State :=
  { s with kernels := s.kernels.map fun k => if k.seq = seq then f k else k }

/-- A context. -/
def State.ctx? (s : State) (id : Nat) : Option Context := s.contexts.find? fun c => c.id == id

/-- The state with a context changed. -/
def State.onCtx (s : State) (id : Nat) (f : Context → Context) : State :=
  { s with contexts := s.contexts.map fun c => if c.id = id then f c else c }

/-- The context of the core in focus. -/
def State.myCtx (s : State) : Nat := match s.mine with | some k => k.ctx | none => 0

/-- A record appended to the journal, or held while the ring is full (R390). [DESIGN CHOICE: log 77] -/
def State.journal (s : State) (r : JRecord) : State :=
  let cp := s.cp
  if cp.nextSeq - 1 - cp.readIdx < 2 ^ 20 ∧ cp.held = [] then
    { s with cp := { cp with journal := cp.journal ++ [{ r with seq := cp.nextSeq }], nextSeq := cp.nextSeq + 1 } }
  else { s with cp := { cp with held := cp.held ++ [r] } }

/-! ## The trace buffer (R218, R219) -/

/-- A trace record. -/
def traceRecord (time : W64) (kind data : Nat) (p : Position) : BitVec 128 :=
  BitVec.ofNat 128 (time.toNat <<< 64 ||| (kind % 64) <<< 58 ||| (data % 65536) <<< 42 ||| (p.seg % 2 ^ 26) <<< 16 ||| p.unit % 65536)

/-- A record put into the ring of 4,096. -/
def Trace.push (t : Trace) (r : BitVec 128) : Trace :=
  { t with records := (t.records ++ [r]).drop ((t.records.length + 1) - 4096) }

/-- An event of a kind: recorded when EVENT enables it, counted toward POST after the trigger, and the first event of a kind in
TRIG writes the trigger record and starts that count. -/
def Trace.event (t : Trace) (w : W32) (time : W64) (kind data : Nat) (p : Position) : Trace :=
  let enabled := bitOf (kind - 1) (field 7 0 w.toNat)
  let trig := bitOf (kind - 1) (field 15 8 w.toNat)
  match t.left with
  | some 0 => t
  | some (n + 1) => if enabled then { t.push (traceRecord time kind data p) with left := some n } else t
  | none =>
    let t := if enabled then t.push (traceRecord time kind data p) else t
    if trig then { t.push (traceRecord time 63 kind p) with left := some (field 31 20 w.toNat) } else t

/-- An event of a core under a trace word. -/
def Core.note (c : Core) (w : W32) (time : W64) (kind data : Nat) : Core :=
  { c with trace := c.trace.event w time kind data c.pos }

/-- The end of a run of held cc of one cause, recorded from 16 cc on (R218). [DEDUCED: log 97] -/
def Core.endRun (c : Core) (w : W32) (time : W64) : Core :=
  let r := c.trace.run
  let c := if 16 ≤ r.2 then c.note w time 2 (r.1 * 4096 + min r.2 4095) else c
  { c with trace := { c.trace with run := (0, 0) } }

/-- The end of a wait for a segment that was missed (R218). -/
def Core.endMiss (c : Core) (w : W32) (time : W64) : Core :=
  let c := if c.trace.miss = 0 then c else c.note w time 4 (min (c.trace.miss - 1) 65535)
  { c with trace := { c.trace with miss := 0 } }

/-- What was under way at a core that stops: its run of held cc, its miss, its freeze (R218). -/
def Core.endTrace (c : Core) (w : W32) (time : W64) : Core :=
  let c := (c.endRun w time).endMiss w time
  match c.run with
  | .frozen _ => c.note w time 3 (min c.frozenFor 65535)
  | _ => c

/-- What was under way at the core in focus ends with its records. -/
def State.endTrace (s : State) : State :=
  match s.mine with
  | some k => s.mapCore fun c => c.endTrace k.trace s.mcyc
  | none => s

/-- An event of the core in focus under its kernel's trace word. -/
def State.trace (s : State) (kind data : Nat) (p : Position) : State :=
  match s.mine with
  | none => s
  | some k => s.mapCore fun c => { c with trace := c.trace.event k.trace s.mcyc kind data p }

/-! ## HBM -/

/-- A module-memory address: the bay's slice of 2^37 bytes and an offset in it. [PRESUMED: log 5] -/
def memAddr (bay off : Nat) : Nat := bay * 2 ^ 37 + off % 2 ^ 37

/-- A byte of HBM; an unlisted byte reads zero (R381). -/
def State.memByte (s : State) (a : Nat) : Byte := Sparse.get 0 s.hbm a

/-- `n` bytes of HBM at consecutive addresses. -/
def State.memBytes (s : State) (a n : Nat) : List Byte := (List.range n).map fun i => s.memByte (a + i)

/-- `n` bytes of HBM as a number. -/
def State.memNat (s : State) (a n : Nat) : Nat := natOf (s.memBytes a n)

/-- Bytes of HBM written in order, poison left alone. -/
def State.memWrite (s : State) (kvs : List (Nat × Byte)) : State := { s with hbm := Sparse.setAll 0 s.hbm kvs }

/-- Whether a 64-byte burst is poisoned (R388). -/
def State.poisoned (s : State) (a : Nat) : Bool := s.poison.contains (a / 64)

/-- A byte as a reader gets it: zero from a poisoned burst (R150). -/
def State.readByte (s : State) (a : Nat) : Byte := if s.poisoned a then 0 else s.memByte a

/-- A write by burst: a whole burst clears its poison, and a partial write into a poisoned burst is dropped and reported (R170). The
result lists the addresses dropped. -/
def State.memStore (s : State) (kvs : List (Nat × Byte)) : State × List Nat :=
  let whole (b : Nat) : Bool := (List.range 64).all fun i => kvs.any fun kv => kv.1 == b * 64 + i
  let cleared := s.poison.filter fun b => kvs.any (fun kv => kv.1 / 64 == b) && whole b
  let s := { s with poison := s.poison.filter fun b => !cleared.contains b }
  let dropped := (kvs.filter fun kv => s.poisoned kv.1).map (·.1)
  (s.memWrite (kvs.filter fun kv => !s.poisoned kv.1), dropped)

/-- The write-back that a home access to leased lines forces: the lines cannot be leased again for 64 beats (R255). -/
def State.writeBack (s : State) (lines : List Nat) : State :=
  let hit := s.leases.filter fun l => lines.contains l.line
  if hit.isEmpty then s
  else { s with leases := s.leases.filter (fun l => !lines.contains l.line),
                leaseBar := (s.leaseBar.filter fun b => decide (s.now < b.2)) ++ hit.map fun l => (l.line, s.now + 32) }

/-! ## The loop buffer (R65 to R68, R214 to R216) -/

/-- The units of a segment. -/
def Kernel.units (k : Kernel) (g : Nat) : List (BitVec 16) := match k.img.segs[g]? with | some x => x.units | none => []

/-- The header of a segment; none where it is malformed or there is no such segment (R66). -/
def Kernel.header (k : Kernel) (g : Nat) : Option SegHeader :=
  match k.img.segs[g]? with
  | some x => parseSegHeader k.img.segs.length k.img.handler g x.header
  | none => none

/-- What the expander checks a core's bundles against (R15, R60). -/
def Kernel.env (k : Kernel) (idx : Nat) : ExpandEnv :=
  ⟨partRf k.img.part, partAcc k.img.part, (k.img.circuits.filter fun c => c.src == idx).map (·.ch),
   (k.img.circuits.filter fun c => c.dst == idx).map (·.ch)⟩

/-- A half that has just been asked for a segment: its first bundle comes after 32 cc (R215). [DEDUCED: log 27] -/
def Half.request (clk g : Nat) : Half := { seg := some g, nextAt := clk + 32 }

/-- The successor the prefetch engine chooses: LIKELY with HINT, else NEXT (R215). -/
def successorOf (h : SegHeader) : Option Nat := if h.hint then h.likely else h.next

/-- The prefetch into the idle half once a half has become executing (R215). -/
def Core.prefetch (c : Core) (k : Kernel) : Core :=
  match c.cur.seg.bind k.header with
  | none => c
  | some h => match successorOf h with
    | none => c
    | some g => if c.idle.seg = some g then c else { c with idle := Half.request c.clk g }

/-- Control passes to a position (R216): within the executing half, to the idle half (a hit), or to a segment asked for now (a
miss). -/
def Core.goto (c : Core) (k : Kernel) (p : Position) : Core :=
  let c := { c with pos := p, npos := none, braced := false, issued := false }
  if c.cur.seg = some p.seg then c
  else if c.idle.seg = some p.seg then { c with cur := c.idle, idle := c.cur }.prefetch k
  else { c with cur := Half.request c.clk p.seg, idle := c.cur, trace := { c.trace with miss := 1 } }.prefetch k

/-- The next bundle of a half expanded and checked (R65, R69, R215): a dictionary index takes 1 cc and a literal 2, whose bundle is there
from the first of them on. [DESIGN CHOICE: log 157] -/
def Half.expand (h : Half) (k : Kernel) (idx clk : Nat) : Half :=
  match h.seg with
  | none => h
  | some g =>
    let fail (r : Reject) : Half :=
      { h with items := h.items ++ [⟨h.pos, h.pos + 1, Bundle.empty, some r⟩], complete := true }
    match k.header g with
    | none => fail ⟨0x0E, 0xFF, .header⟩
    | some hd =>
      if hd.len ≤ h.pos then { h with complete := true }
      else if h.items.length = 512 then fail ⟨0x0B, 0xFF, .header⟩
      else match expandUnit k.img.dict (k.units g) hd.len h.pos with
        | .error r => fail ⟨r, 0xFF, .header⟩
        | .ok (w, next, lit) =>
          let item : XItem := match decodeBundle (k.env idx) w with
            | .ok b => ⟨h.pos, next, b, none⟩
            | .error r => ⟨h.pos, next, Bundle.empty, some r⟩
          { h with items := h.items ++ [item], pos := next, nextAt := clk + (if lit then 2 else 1),
                   complete := decide (hd.len ≤ next) }

/-- A half expanded whole, as at launch and at resume (R214). -/
def Half.expandAll (k : Kernel) (idx clk : Nat) : Nat → Half → Half
  | 0, h => h
  | n + 1, h => if h.complete then h else Half.expandAll k idx clk n (h.expand k idx clk)

/-- The expanded bundle at the position next to issue. -/
def Core.item (c : Core) : Option XItem := c.cur.items.find? fun i => i.off == c.pos.unit

/-- The position after a bundle that begins at the present one: the next bundle, or (NEXT, 0), or (segment, LEN) (R67). -/
def Core.following (c : Core) (k : Kernel) (i : XItem) : Position :=
  match k.header c.pos.seg with
  | none => ⟨c.pos.seg, i.next⟩
  | some h =>
    if i.next < h.len then ⟨c.pos.seg, i.next⟩
    else match h.next with
      | some g => ⟨g, 0⟩
      | none => ⟨c.pos.seg, h.len⟩

/-! ## Errors that no wait raised (R397) -/

/-- Whether the first of two unawaited errors is the one to keep: the lower MCYC, then the lower core, a token before a handle, the
lower number. -/
def FirstError.before (a b : FirstError) : Bool :=
  decide (a.at_ < b.at_) || (a.at_ == b.at_ && (decide (a.core < b.core) || (a.core == b.core &&
    ((!a.isHandle && b.isHandle) || (a.isHandle == b.isHandle && decide (a.num < b.num))))))

/-- One unawaited error counted. -/
def Core.countError (c : Core) (now : Nat) (isHandle : Bool) (num status : Nat) : Core :=
  let e : FirstError := ⟨now, c.idx, isHandle, num, status⟩
  { c with unaw := c.unaw + 1,
           firstErr := match c.firstErr with
             | none => some e
             | some f => some (if e.before f then e else f) }

/-- The error a token loses when it is named again or its core ends. -/
def Core.loseToken (c : Core) (now n : Nat) : Core :=
  let t := c.rt n
  if t.done && t.status != 0 && !t.awaited then c.countError now false n t.status else c

/-- The error a handle loses. -/
def Core.loseHandle (c : Core) (now n : Nat) : Core :=
  let h := c.rc n
  if h.st == .complete && h.status != 0 && !h.awaited then c.countError now true n h.status else c

/-- Every error a core loses when it ends; a kill also completes each pending handle with 0x02, which is counted (R353, R397). -/
def Core.loseAll (c : Core) (now : Nat) (killed : Bool) : Core :=
  let c := (List.range 64).foldl (fun c n => c.loseToken now n) c
  (List.range 32).foldl (fun c n =>
    if killed && ((c.rc n).st == .pending || (c.rc n).st == .localDone) then
      (c.wc n { c.rc n with st := .complete, status := 2 }).countError now true n 2
    else c.loseHandle now n) c

/-- Covering fences that are gone: an error found at the memory that no fence left is to report counts in UNCOV (R170, R391). -/
def Core.dropNoted (c : Core) (gone : Nat → Bool) : Core :=
  let l := c.noted.map fun ids => ids.filter fun i => !gone i
  { c with noted := l.filter fun ids => !ids.isEmpty, uncov := c.uncov + (l.filter List.isEmpty).length }

/-! ## Rollback (R342 to R344) -/

/-- Every log record undone, the newest first; staged bytes of earlier intervals stay until they are drained (R339). -/
def Core.undoLog (c : Core) : Core := { (c.log.foldl Core.undo c) with log := c.log.filter fun r => r.ivl != c.interval }

/-- The copies a brace takes (R337); a bundle that issues again keeps the mark of its SEND (R195, R348). -/
def Core.takeCopies (c : Core) : BraceCopy :=
  { s := c.s, p := c.p, q := c.q, a := c.a, h := c.h, lc := c.lc, fm := c.fm, tok := c.tok, hnd := c.hnd, strict := c.strict,
    kest := c.kest, ftb := c.ftb, ftsel := c.ftsel, pos := c.pos, sent := c.reissue && c.brace.sent, firstOp := c.nextOp, mLast := c.mLast,
    unaw := c.unaw, firstErr := c.firstErr }

/-- The brace copies taken, a fresh log but for staged bytes not drained yet (R339), and the new interval (R337); also what a launch, a
resume and a TRET to the launch target do (R348). -/
def Core.startInterval (c : Core) : Core :=
  { c with brace := c.takeCopies, interval := c.interval + 1, reissue := false,
           log := c.log.filter fun r => match r with
             | .staged _ id _ _ _ => c.ops.any fun o => o.id == id && o.logged && !o.drained
             | _ => false }

/-- A core on its way back to its rollback target, which has yet to issue again, takes the copies of that issue: what the handler wrote
survives whatever comes before it (R338, R348). [DEDUCED: log 173] -/
def Core.renew (c : Core) : Core :=
  if c.reissue && !c.mode then ({ c with pos := c.npos.getD c.pos } : Core).startInterval else c

/-- The core back at its last brace: pending writes, freezes and waits end, operations since the brace are abandoned and their
withheld effects discarded, but those of fired triggers (R199), the log is applied, and every register, token and handle of R337 takes its brace copy, a token or
handle only where an operation since the brace named it last; the error that such an operation took from it by naming it is no longer
lost and no longer counted (R397). The engines stay occupied as long as they would have been.
[DEDUCED: log 24, 33, 121, 156] -/
def Core.rollback (c : Core) : Core :=
  let c := c.settleLeft.renew
  let b := c.brace
  let c := c.undoLog.dropNoted fun id => decide (c.brace.firstOp ≤ id)
  { c with
    s := b.s, p := b.p, q := b.q, a := b.a, h := b.h, lc := b.lc, fm := b.fm,
    strict := b.strict, mLast := b.mLast, unaw := b.unaw, firstErr := b.firstErr, kest := b.kest, ftb := b.ftb, ftsel := b.ftsel,
    tok := c.tok.foldl (fun l kv => if b.firstOp ≤ kv.2.owner then Sparse.set {} l kv.1 (Sparse.get {} b.tok kv.1) else l) c.tok,
    hnd := c.hnd.foldl (fun l kv => if b.firstOp ≤ kv.2.owner then Sparse.set {} l kv.1 (Sparse.get {} b.hnd kv.1) else l) c.hnd,
    mq := c.mq.filter fun o => decide (o.id < b.firstOp),
    ops := c.ops.filter fun o => decide (o.id < b.firstOp) || o.fired,
    queues := c.queues.map fun q => (q.1, q.2.map fun e => { e with used := false }),
    pend := [], stores := [], steps := 0, npos := none, braced := false, issued := false, resumeTo := .running, run := .running }

/-! ## Traps (R345 to R349) -/

/-- A trap: its cause, its slot, and TRAPINFO. TRAPAT is the position of the bundle the core stands at. -/
structure Trap where
  cause : Nat
  slot : Slot
  info : Nat
  deriving DecidableEq, Repr

/-- The number of a slot in TRAPSLOT (R17). -/
def slotNum : Slot → Nat
  | .header => 0 | .s => 1 | .va => 2 | .vb => 3 | .m => 4 | .c0 => 5 | .c1 => 6 | .k => 7

/-- ILLEGAL-ENCODING with TRAPINFO as R70 lays it out. -/
def Trap.encoding (r : Reject) (unit : Nat) : Trap := ⟨0x0001, r.slot, r.reason ||| r.field <<< 8 ||| unit <<< 16⟩

/-- A core whose kernel has been killed or has faulted: nothing runs on it, its copies are cancelled, its withheld effects, waiting
takes and triggers are discarded, and its lost errors are counted (R353, R397). Effects released and on their way go on, `take` told
apart (R274, R370). [DEDUCED: log 85] -/
def Core.kill (c : Core) (now : Nat) (take : COp → Bool) : Core :=
  let c := (if c.run == .halted then c else c.loseAll now true).dropNoted fun _ => true
  { c with run := .stopped, mq := [], pend := [], left := [], stores := [], racing := [], triggers := [], steps := 0, log := [], npos := none,
           queues := [], walkers := [],
           ops := c.ops.filter fun o => o.outward && o.released && !o.drained &&
             ((o.stage == .localDone && (decide (o.opc < 0x40) || ((o.opc == 0x43 || o.opc == 0x44) && o.parts != 0))) ||
              (o.stage == .moving && (0x60 ≤ o.opc && o.opc ≤ 0x63 || o.opc == 0x70 || o.opc == 0x71 || o.opc == 0x73 || o.opc == 0x74) &&
                !take o)) }

/-- Whether a CNTINC of a kernel is a take on a queue counter, which may wait for ever (R370). -/
def Kernel.isTake (k : Kernel) (o : COp) : Bool :=
  o.opc == 0x63 && decide (o.y.toInt < 0) && k.queues.any fun q => q.freeId == field 9 0 o.x.toNat || q.fillId == field 9 0 o.x.toNat

/-- An advance released by a core: added to the module's STEP at once, and seen by the others as R309 says. Where it crosses a
multiple of 2^21, a sweep pass is due in every bay (R311). -/
def State.advanceStep (s : State) (ctx core : Nat) (n : W64) : State :=
  let old := match s.ctx? ctx with | some x => x.step.toNat | none => 0
  let s := s.onCtx ctx fun x =>
    { x with step := x.step + n, recent := (x.recent.filter fun r => decide (s.now < r.1 + 32)) ++ [(s.now, core, n)] }
  if old / 2 ^ 21 = (old + n.toNat) / 2 ^ 21 then s
  else (List.range 8).foldl (fun s b => s.after 0 none (.sweepPassStart ctx b)) s

/-- The advances that a core's brace has released are added as its bundle issues (R309). -/
def State.addSteps (s : State) (ref : Nat) : State :=
  let c := s.coreAt ref
  if c.stepsOut = 0 then s
  else match s.kernel? c.kernel with
    | some k => (s.advanceStep k.ctx ref (BitVec.ofNat 64 c.stepsOut)).onCore ref fun c => { c with stepsOut := 0 }
    | none => s

/-- Every core of a kernel stopped at once, the kernel marked with how it ends, and its retirement due (R353). -/
def State.stopKernel (s : State) (seq : Nat) (how : KEnd) : State :=
  match s.kernel? seq with
  | none => s
  | some k =>
    if k.ending.isSome || k.phase == .retired then s
    else
      let s := k.cores.foldl (fun s r => (s.addSteps r).onCore r fun c => (c.endTrace k.trace s.mcyc).kill s.now k.isTake) s
      (s.onKernel seq fun k => { k with ending := some how, saved := k.saved.map fun r => { r with core := r.core.kill s.now k.isTake } }).after 0 none
        (.kernelRetirement seq)

/-- A kernel ends by a context fault, with its record (R349). -/
def State.faultKernel (s : State) (seq : Nat) (r : FaultRecord) : State :=
  (s.onKernel seq fun k => if k.ending.isSome then k else { k with record := some r }).stopKernel seq .faulted

/-- A context fault of the core in focus: the kernel ends as by a kill, and a fault record follows (R349). [DEDUCED: log 26] -/
def State.contextFault (s : State) (cause : Nat) (t : Trap) : State :=
  match s.mine with
  | none => s
  | some k =>
    let c := s.core
    let tp := if c.mode then c.trapPc else c.brace.pos.word
    s.faultKernel k.seq ⟨cause, c.idx, tp, c.pos.word, BitVec.ofNat 8 (slotNum t.slot), BitVec.ofNat 16 t.cause,
      BitVec.ofNat 64 t.info, c.ksave⟩

/-- Steps 1 to 5 of R345 on the core, with the handler segment `g`: the rollback, KSAVE, the trap registers, MODE, and control to
the handler once 4 + ⌈B/256⌉ cc have passed. -/
def Core.enterHandler (c : Core) (k : Kernel) (g : Nat) (t : Trap) : Core :=
  let cost := 4 + ceilDiv (c.logBytes - c.undrained) 256
  let at_ := c.pos.word
  let c := c.rollback
  let c := { c with ksave := statusWord c.flags c.strict false, trapPc := c.brace.pos.word, trapAt := at_,
                    trapSlot := BitVec.ofNat 8 (slotNum t.slot), trapCause := BitVec.ofNat 16 t.cause,
                    trapInfo := BitVec.ofNat 64 t.info, mode := true, frozenFor := 0 }
  let clk := c.clk
  let c := { c with clk := clk + cost }.goto k ⟨g, 0⟩
  { c with clk := clk, notBefore := clk + cost + 1 }

/-- Taking a trap (R345): a trap in handler mode and a trap of a kernel without a handler are context faults (R349). -/
def State.takeTrap (s : State) (t : Trap) : State :=
  match s.mine with
  | none => s
  | some k =>
    if s.core.mode then s.contextFault 0x0100 t
    else match k.img.handler with
      | none => s.contextFault 0x0101 t
      | some g => (s.trace 5 t.cause s.core.pos).mapCore fun c => c.enterHandler k g t

/-- SHORE-OVERFLOW raised where the log has outgrown its banks (R340). -/
def State.settle (s : State) : State :=
  if s.core.logFull then s.contextFault 0x0103 ⟨0, .header, 0⟩ else s

/-- An operation that may trap: the trap, or its effect. -/
def State.orTrap (s : State) (t : Option Trap) (f : State → State) : State :=
  match t with
  | some t => s.takeTrap t
  | none => f s

end Sys2Proof.Machine
end

