-- ==== Sys2Proof/Machine/Translate.lean ====
section
/-! DEFINITION. Page tables and translation (R253, R374 to R378): leaf entries, striped pages, the module-memory address of a
virtual byte, and the yard region that holds an address (R319). -/

namespace Sys2Proof.Machine

/-- The bytes of a page by its SZ code (R375). -/
def pageBytes (sz : Nat) : Nat := if sz = 0 then 2 ^ 16 else if sz = 1 then 2 ^ 21 else 2 ^ 30

/-- SZ of a leaf. -/
def leafSz (w : W64) : Nat := field 59 58 w.toNat
/-- HOME. -/
def leafHome (w : W64) : Nat := field 53 51 w.toNat
/-- STRS. -/
def leafStripe (w : W64) : Nat := field 50 43 w.toNat
/-- The frame's first byte in its slice. -/
def leafFrame (w : W64) : Nat := field 36 16 w.toNat * 2 ^ 16
/-- RD. -/
def leafRd (w : W64) : Bool := bitOf 61 w.toNat
/-- WR. -/
def leafWr (w : W64) : Bool := bitOf 60 w.toNat
/-- YARD. -/
def leafYard (w : W64) : Bool := bitOf 57 w.toNat
/-- WTH. -/
def leafWth (w : W64) : Bool := bitOf 56 w.toNat
/-- SEAL. -/
def leafSeal (w : W64) : Bool := bitOf 55 w.toNat
/-- MIG. -/
def leafMig (w : W64) : Bool := bitOf 54 w.toNat

/-- A well-formed valid leaf: V and LEAF, SZ not 3, reserved bits zero, PFN zero below the page size (R375). -/
def leafOk (w : W64) : Bool :=
  let n := w.toNat
  bitOf 63 n && bitOf 62 n && leafSz w != 3 && field 42 37 n == 0 && field 15 0 n == 0 &&
    leafFrame w % pageBytes (leafSz w) == 0

/-! ## The radix tree (R375) -/

/-- Log₂ of the bytes that one entry of a table of a level spans: VA[56:48] indexes level 0, VA[20:16] level 4. -/
def levelShift (level : Nat) : Nat := [48, 39, 30, 21].getD level 16

/-- The level at which a leaf of an SZ code stands: 4, 3 or 2; one with SZ 3 is malformed wherever it stands. -/
def leafLevel (sz : Nat) : Nat := 4 - sz

/-- Whether a leaf stands at a level in the entry that covers a virtual address, or below it. -/
def Leaf.under (l : Leaf) (level va : Nat) : Bool :=
  decide (level ≤ leafLevel (leafSz l.word)) && l.page * 2 ^ 16 / 2 ^ levelShift level == va / 2 ^ levelShift level

/-- A pointer entry to a table at a protected address: V, LEAF zero, the address in [36:8], every other bit zero. -/
def pointerTo (a : Nat) : W64 := BitVec.ofNat 64 (2 ^ 63 + a / 256 % 2 ^ 29 * 256)

/-- A well-formed pointer entry. -/
def pointerOk (w : W64) : Bool := bitOf 63 w.toNat && field 62 37 w.toNat == 0 && field 7 0 w.toNat == 0

/-- The protected address of the table of a level above the leaves from the i-th on, in a bay's replica. [DESIGN CHOICE: log 155] -/
def tableAt (bay level i : Nat) : Nat := (i * 5 + level) * 8 * 4096 + bay * 4096

/-- The entry of a bay's replica of a context's tables that covers a virtual address at a level: a leaf, a pointer to the next table
where leaves stand below it, or an entry that is not valid. Every replica holds the same leaves, because MAP, INVAL and SEAL write all of
them (R377, R385). -/
def Context.entryAt (x : Context) (bay level va : Nat) : W64 :=
  match x.leaves.find? fun l => leafLevel (leafSz l.word) == level && l.under level va with
  | some l => l.word
  | none => match x.leaves.findIdx? fun l => l.under level va with
    | some i => pointerTo (tableAt bay (level + 1) i)
    | none => 0

/-- A walk of a bay's replica from a level on: the entry where it ends, and the levels read. -/
def Context.descend (x : Context) (bay va : Nat) : Nat → Nat → W64 × Nat
  | 0, level => (0, level)
  | n + 1, level =>
    let w := x.entryAt bay level va
    if !bitOf 63 w.toNat || bitOf 62 w.toNat || !pointerOk w then (w, level + 1) else x.descend bay va n (level + 1)

/-- The walk of a virtual address: levels 0 to 4. -/
def Context.descent (x : Context) (bay va : Nat) : W64 × Nat := x.descend bay va 5 0

/-- The valid entry at which the walk of a virtual address ends: a leaf, or a malformed entry, which is not `leafOk`. -/
def Context.leaf? (x : Context) (va : Nat) : Option W64 :=
  let w := (x.descent 0 va).1
  if bitOf 63 w.toNat then some w else none

/-- peer(b) of R253 for P members: the exclusive-or of the base-P digits of b where P is a power of two, else b mod P. -/
def stripePeer (p b : Nat) : Nat :=
  if p = 2 ^ Nat.log2 p then (List.range 49).foldl (fun acc i => acc ^^^ (b / p ^ i % p)) 0 else b % p

/-- The stripe set of a number. -/
def Context.stripe? (x : Context) (n : Nat) : Option StripeSet := x.stripes.find? fun t => t.num == n

/-- Where a byte under a leaf is homed and where it stands: (module, bay, offset in the slice). -/
def Context.homeOf (x : Context) (node : Nat) (w : W64) (va : Nat) : Option (Nat × Nat × Nat) :=
  let size := pageBytes (leafSz w)
  if leafStripe w = 0 then some (node, leafHome w, leafFrame w + va % size)
  else match x.stripe? (leafStripe w) with
    | none => none
    | some t =>
      let b := va / 256
      let p := t.members.length
      match t.members[stripePeer p b]? with
      | none => none
      | some (nd, bay) => some (nd, bay, leafFrame w + (b / p * 256 + va % 256) % size)

/-- The module-memory address of a virtual byte, wherever in the module it is homed. -/
def State.phys? (s : State) (ctx va : Nat) : Option Nat :=
  match s.ctx? ctx with
  | none => none
  | some x => match x.leaf? va with
    | none => none
    | some w => match x.homeOf s.node.toNat w va with
      | some (nd, bay, off) => if nd = s.node.toNat then some (memAddr bay off) else none
      | none => none

/-- The yard region of a context that holds an address (R82, R319). -/
def State.regionAt (s : State) (ctx addr : Nat) : Option Region :=
  s.regions.find? fun g => g.key.ctx == ctx && decide (g.base ≤ addr) && decide (addr < g.base + g.len)

/-- A region by key. -/
def State.region? (s : State) (k : RegKey) : Option Region := s.regions.find? fun g => g.key == k

/-- The state with a region changed. -/
def State.onRegion (s : State) (k : RegKey) (f : Region → Region) : State :=
  { s with regions := s.regions.map fun g => if g.key = k then f g else g }

/-- The object address of a reference (R321). -/
def refAddr (r : W64) : Nat := field 56 4 r.toNat * 16

/-- Whether an address lies in the relay window. -/
def Region.inWindow (g : Region) (addr : Nat) : Bool := decide (g.rwlo ≤ addr) && decide (addr < g.rwhi)

/-- A current reference (R323). -/
def Region.current (g : Region) (r : W64) : Bool := field 1 0 r.toNat == g.epoch && !g.inWindow (refAddr r)

/-- The address an object is found at now (R323). -/
def Region.forward (g : Region) (addr : Nat) : Nat := match g.table.find? fun e => e.src == addr with | some e => e.tgt | none => addr

/-- A reference with an address and an epoch, its mark and hint kept. -/
def refWith (r : W64) (addr ep : Nat) : W64 := BitVec.ofNat 64 (addr / 16 % 2 ^ 53 * 16 + field 3 2 r.toNat * 4 + ep % 4)

/-- resolve of R323. -/
def Region.resolve (g : Region) (r : W64) : W64 := refWith r (g.forward (refAddr r)) g.epoch

/-- How long a lookup takes: 24 cc for one of the 1,024 most recently used entries of the home bay's relay engine, else 180; 320 more
from another bay (R323). -/
def State.lookupCost (s : State) (g : Region) (bay addr : Nat) : Nat :=
  (if (Sparse.get [] s.yardRecent g.home).contains (g.key, addr) then 24 else 180) + (if g.home = bay then 0 else 320)

/-- A lookup makes its address the most recently used of the home bay's relay engine. [DEDUCED: log 110] -/
def State.touchYard (s : State) (g : Region) (addr : Nat) : State :=
  let old := Sparse.get [] s.yardRecent g.home
  { s with yardRecent := Sparse.put s.yardRecent g.home (((g.key, addr) :: old.filter (· != (g.key, addr))).take 1024) }

end Sys2Proof.Machine
end

