-- ==== Sys2Proof/Machine/Operands.lean ====
section
/-! DEFINITION. Operand forms: guards, scalar operands and immediates, acting lanes, elements of a lane, pool addresses, bank sets
and descriptor fields. -/

namespace Sys2Proof.Machine

/-- What a meaning answers. -/
abbrev Result := Host.Outcome State Fault Refusal

/-- An operation under a guard: no effect where the guard is false (R47). -/
def guarded (g : Bool) (s : State) (f : State → State) : Result := .next (if g then f s else s)

/-- An immediate sign-extended to 64 bits (R55). -/
def sext (imm : W32) : W64 := BitVec.ofInt 64 imm.toInt
/-- An immediate zero-extended to 64 bits (R55). -/
def zext (imm : W32) : W64 := BitVec.ofNat 64 imm.toNat

/-- An s result of an R form that lands after `lat` cc (R72). -/
def scalarR (f : RForm) (lat : Nat) (res : W64 → W64 → W64 × Flags) (s : State) : Result :=
  guarded (s.core.rp f.pg.toNat) s fun s => s.mapCore fun c =>
    let r := res (c.rs f.sa.toNat) (c.rs f.sb.toNat)
    c.later .s lat [.s f.sd.toNat r.1] r.2

/-- An s result of an I form with its immediate extended by the operation (R55, R72). -/
def scalarI (f : IForm) (lat : Nat) (y : W64) (res : W64 → W64 → W64 × Flags) (s : State) : Result :=
  guarded (s.core.rp f.pg.toNat) s fun s => s.mapCore fun c =>
    let r := res (c.rs f.sa.toNat) y
    c.later .s lat [.s f.sd.toNat r.1] r.2

/-- A result that raises no flag. -/
def quiet (op : W64 → W64 → W64) (x y : W64) : W64 × Flags := (op x y, {})

/-- One pool offset of a scalar access: (OFF + signed displacement) mod 2^24 (R80). -/
def poolOff (a : W64) (imm : W32) : Nat := (((aOff a : Nat) : Int) + signedOf 24 (field 23 0 imm.toNat) |>.emod (2 ^ 24)).toNat

/-! ## Lanes -/

/-- Whether a lane acts: its course is enabled and its guard bit is 1 (R98). -/
def laneActs (c : Core) (f : VForm) (l : Nat) : Bool := bitOf (l / 16) f.cm.toNat && bitOf l (c.rq f.qg.toNat).toNat

/-- The acting lanes in ascending order. -/
def actingLanes (c : Core) (f : VForm) : List Nat := (List.range 128).filter fun l => laneActs c f l

/-- The lanes of the enabled courses. -/
def courseLanes (f : VForm) : List Nat := (List.range 128).filter fun l => bitOf (l / 16) f.cm.toNat

/-- A mask of 128 bits with the listed bits set. -/
def maskOf (ls : List Nat) : BitVec 128 := BitVec.ofNat 128 (ls.foldl (fun n l => n ||| 2 ^ l) 0)


/-- The slot of a vector unit. -/
def vslot (u : VUnit) : Slot := match u with | .va => .va | .vb => .vb
/-- The slot of a copy engine. -/
def cslot (u : CUnit) : Slot := match u with | .c0 => .c0 | .c1 => .c1

/-- The element width of a type code other than fm (R99). -/
def elemWidth (ty : Nat) : Nat := if ty < 3 then 32 else if ty < 6 then 16 else 8

/-- Element i of width w of a lane. -/
def elemOf (w : Nat) (x : W32) (i : Nat) : Nat := x.toNat / 2 ^ (w * i) % 2 ^ w

/-- A lane made of elements of width w, the first lowest. -/
def packLane (w : Nat) : List Nat → Nat
  | [] => 0
  | e :: rest => e % 2 ^ w + 2 ^ w * packLane w rest

/-- Each element of a lane mapped, with the flags of all. -/
def mapElems (w : Nat) (n : Nat) (g : Nat → Nat × Flags) : W32 × Flags :=
  let rs := (List.range n).map g
  (BitVec.ofNat 32 (packLane w (rs.map (·.1))), Flags.join (rs.map (·.2)))

/-! ## Bank sets (R206) -/

/-- The scratchpad banks of a core. -/
def Core.scratchBanks (c : Core) : List Nat := (List.range (partScratch c.partword)).map (· + partBase c.partword)

/-- The named set of an address register. -/
def Core.namedBanks (c : Core) (a : W64) : List Nat :=
  if aNb a = 0 then c.scratchBanks else c.scratchBanks.filter fun b => decide (aBank a ≤ b) && decide (b < aBank a + aNb a)

/-- The banks of the bytes an access touches, given as (offset, length) runs. [DEDUCED: log 28] -/
def Core.touchedBanks (c : Core) (runs : List (Nat × Nat)) : List Nat :=
  c.scratchBanks.filter fun b => runs.any fun r =>
    -- a run meets bank b where one of its ends or one of its bank boundaries does
    (List.range (r.2 / bankBytes + 2)).any fun i =>
      decide (r.2 ≠ 0) && ((c.place (min (r.1 + i * bankBytes) (r.1 + r.2 - 1))).map (· / bankBytes) == some b)

/-- The reserved set: touched and named. -/
def Core.reserve (c : Core) (a : W64) (runs : List (Nat × Nat)) : List Nat :=
  let named := c.namedBanks a
  (c.touchedBanks runs).filter fun b => named.contains b

/-! ## Format-table row (R16) -/

/-- The row in use: (FTB + lc[FTSEL]) mod 64. -/
def Core.rowNo (c : Core) : Nat := (c.ftb.toNat + (c.rlc c.ftsel.toNat).toNat) % 64

/-- A row of the kernel's table. -/
def Kernel.row (k : Kernel) (n : Nat) : W64 := k.img.rows.getD n 0

/-! ## Bundle positions -/

/-- The position after the bundle at which the core stands. -/
def State.nextPos (s : State) : Position :=
  match s.mine, s.core.item with
  | some k, some i => s.core.following k i
  | _, _ => ⟨s.core.pos.seg, s.core.pos.unit + 1⟩

end Sys2Proof.Machine
end

