-- ==== Sys2Proof/Machine/PoolScalar.lean ====
section
/-! DEFINITION. Scalar access to the pool and yard references in the S slot (R80 to R86), with the reply that ends an HLD or HPIN
freeze (R323). -/

namespace Sys2Proof.Machine

/-- The access size of LDS and STS: IMM[25:24] (R55). -/
def accessSize (imm : W32) : Nat := 2 ^ field 25 24 imm.toNat

/-- LDS: the pool as it stood before the bundle (R81), zero- or sign-extended. -/
def execLds (f : IForm) (s : State) : Result :=
  guarded (s.core.rp f.pg.toNat) s fun s => s.mapCore fun c =>
    let n := accessSize f.imm
    let x := c.slotNat (poolOff (c.ra f.sa.toNat) f.imm) n
    c.later .s 3 [.s f.sd.toNat (if bitOf 26 f.imm.toNat then BitVec.ofInt 64 (signedOf (8 * n) x) else BitVec.ofNat 64 x)]

/-- STS: the store joins the bundle's stores, which take effect in slot order (R81). -/
def execSts (f : IForm) (s : State) : Result :=
  guarded (s.core.rp f.pg.toNat) s fun s => s.mapCore fun c =>
    { c with stores := c.stores ++
        cellsAt (poolOff (c.ra f.sa.toNat) f.imm) (bytesOf (accessSize f.imm) (c.rs f.sd.toNat).toNat) }

/-! ## References -/

/-- REFERENCE-FAULT with a reason and a reference (R73). -/
def refFault (reason : Nat) (r : W64) : Trap := ⟨0x000C, .s, r.toNat / 16 * 16 + reason⟩

/-- REFERENCE-FAULT of a misaligned slot: the pool offset stands in [63:4]. [DEDUCED: log 22] -/
def misaligned (off : Nat) : Trap := ⟨0x000C, .s, off * 16 + 2⟩

/-- The checks of a reference that is not null: bits [63:57], and a region that holds it (R82). -/
def refTrap (s : State) (r : W64) : Option Trap :=
  if r = 0 then none
  else if field 63 57 r.toNat ≠ 0 then some (refFault 1 r)
  else match s.regionAt s.myCtx (refAddr r) with
    | none => some (refFault 3 r)
    | some _ => none

/-- The trap HLD takes, if any. -/
def hldTrap (f : IForm) (s : State) : Option Trap :=
  let c := s.core
  let off := poolOff (c.ra f.sa.toNat) f.imm
  if !c.rp f.pg.toNat then none
  else if off % 8 ≠ 0 then some (misaligned off)
  else refTrap s (BitVec.ofNat 64 (c.slotNat off 8))

/-- A freeze for a lookup of the yard, and when its reply is due (R209, R323). -/
def State.awaitYard (s : State) (w : YardWait) (cost : Nat) : State :=
  let (late, s) := s.free Config.late
  let s := s.mapCore fun c => { c with run := .frozen (.yard { w with due := s.now + cost + late }), frozenFor := 0 }
  s.after (cost + late) (some s.core.ref) (.yardLookupReply none)

/-- HLD (R82): null and current references land at once; another is resolved and freezes the core for the lookup (R323). -/
def hldEffect (f : IForm) (s : State) : State :=
  let c := s.core
  let off := poolOff (c.ra f.sa.toNat) f.imm
  let r : W64 := BitVec.ofNat 64 (c.slotNat off 8)
  match s.regionAt s.myCtx (refAddr r) with
  | none => s.mapCore fun c => c.later .s 3 [.ref f.sd.toNat r]
  | some g =>
    if r = 0 || g.current r then s.mapCore fun c => c.later .s 3 [.ref f.sd.toNat r]
    else (s.awaitYard ⟨false, f.sd.toNat, 0, off, r, g.key, 0, g.resolve r⟩ (s.lookupCost g (bayOf c.ref) (refAddr r))).touchYard g (refAddr r)

/-- HLD. -/
def execHld (f : IForm) (s : State) : Result :=
  guarded (s.core.rp f.pg.toNat) s fun s => s.orTrap (hldTrap f s) (hldEffect f)

/-- The trap HST takes, if any (R83). -/
def hstTrap (f : IForm) (s : State) : Option Trap :=
  let off := poolOff (s.core.ra f.sa.toNat) f.imm
  if s.core.rp f.pg.toNat && off % 8 != 0 then some (misaligned off) else none

/-- HST: no barrier and no check of the value (R83). [DEDUCED: log 17] -/
def execHst (f : IForm) (s : State) : Result :=
  guarded (s.core.rp f.pg.toNat) s fun s => s.orTrap (hstTrap f s) fun s => s.mapCore fun c =>
    { c with stores := c.stores ++ cellsAt (poolOff (c.ra f.sa.toNat) f.imm) (bytesOf 8 (c.rh f.sd.toNat).toNat) }

/-- The trap HMOV takes, if any: FN 2 checks bits [63:57] (R84). -/
def hmovTrap (f : RForm) (s : State) : Option Trap :=
  let x := s.core.rs f.sa.toNat
  if s.core.rp f.pg.toNat && f.fn.toNat == 2 && field 63 57 x.toNat != 0 then some (refFault 1 x) else none

/-- HMOV (R84): FN 0 h to h, FN 1 h to s, FN 2 s to h. -/
def execHmov (f : RForm) (s : State) : Result :=
  guarded (s.core.rp f.pg.toNat) s fun s => s.orTrap (hmovTrap f s) fun s => s.mapCore fun c =>
    c.later .s 1 [match f.fn.toNat with
      | 0 => .h f.sd.toNat (c.rh f.sa.toNat)
      | 1 => .s f.sd.toNat (c.rh f.sa.toNat)
      | _ => .h f.sd.toNat (c.rs f.sa.toNat)]

/-- The trap HPIN takes at issue, if any. -/
def hpinTrap (f : RForm) (s : State) : Option Trap :=
  if s.core.rp f.pg.toNat then refTrap s (s.core.rh f.sa.toNat) else none

/-- HPIN (R85): the lookup, if the reference is not current, and then the header, 180 cc, or 500 from another bay. -/
def hpinEffect (f : RForm) (s : State) : State :=
  let c := s.core
  let r := c.rh f.sa.toNat
  match s.regionAt s.myCtx (refAddr r) with
  | none => s.mapCore fun c => c.later .s 1 [.s f.sd.toNat 0]
  | some g =>
    if r = 0 then s.mapCore fun c => c.later .s 1 [.s f.sd.toNat 0]
    else
      let t := s.awaitYard ⟨true, f.sd.toNat, f.sa.toNat, 0, r, g.key, 0, if g.current r then r else g.resolve r⟩
        ((if g.current r then 0 else s.lookupCost g (bayOf c.ref) (refAddr r)) + (if g.home = bayOf c.ref then 180 else 500))
      if g.current r then t else t.touchYard g (refAddr r)

/-- HPIN. -/
def execHpin (f : RForm) (s : State) : Result :=
  guarded (s.core.rp f.pg.toNat) s fun s => s.orTrap (hpinTrap f s) (hpinEffect f)

/-- The module-memory address of an object header, in its region's home bay. [DEDUCED: log 38] -/
def State.headerAt (s : State) (ctx addr : Nat) : Option Nat := s.phys? ctx addr

/-- PINC of a header (R322). -/
def State.pinCount (s : State) (ctx addr : Nat) : Nat := match s.headerAt ctx addr with | some a => (s.memByte (a + 6)).toNat | none => 0
/-- PINC written by the relay engine, a lease of the line written back first (R255); the reserved bits [63:58] become zero (R322). -/
def State.setPin (s : State) (ctx addr n : Nat) : State :=
  match s.headerAt ctx addr with
  | some a => (s.writeBack [a / 256]).memWrite [(a + 6, BitVec.ofNat 8 n), (a + 7, s.memByte (a + 7) &&& 3)]
  | none => s
/-- STATE of a header (R322). -/
def State.objState (s : State) (ctx addr : Nat) : Nat := match s.headerAt ctx addr with | some a => (s.memByte (a + 7)).toNat % 4 | none => 0
/-- STATE written by the relay engine, a lease of the line written back first (R255); the reserved bits above it become zero. -/
def State.setObjState (s : State) (ctx addr n : Nat) : State :=
  match s.headerAt ctx addr with
  | some a => (s.writeBack [a / 256]).memWrite [(a + 7, BitVec.ofNat 8 (n % 4))]
  | none => s
/-- SIZE of a header, in bytes. -/
def State.objBytes (s : State) (ctx addr : Nat) : Nat := match s.headerAt ctx addr with | some a => 16 * s.memNat a 3 | none => 0

/-- The address at which the object of a reference is found now. -/
def Region.objectOf (g : Region) (r : W64) : Nat := if g.current r then refAddr r else g.forward (refAddr r)

/-- The trap HUNPIN takes, if any: a malformed reference, no region, or a count of 0 (R86). -/
def hunpinTrap (f : RForm) (s : State) : Option Trap :=
  let r := s.core.rh f.sa.toNat
  if !s.core.rp f.pg.toNat || r == 0 then none
  else match refTrap s r with
    | some t => some t
    | none => match s.regionAt s.myCtx (refAddr r) with
      | none => none
      | some g => if s.pinCount s.myCtx (g.objectOf r) = 0 then some (refFault 4 r) else none

/-- HUNPIN (R86): the count goes down, and the hint is cleared when it reaches 0; null does nothing. -/
def hunpinEffect (f : RForm) (s : State) : State :=
  let r := s.core.rh f.sa.toNat
  match s.regionAt s.myCtx (refAddr r) with
  | none => s
  | some g =>
    if r = 0 then s
    else
      let a := g.objectOf r
      let n := s.pinCount s.myCtx a - 1
      let s := s.setPin s.myCtx a n
      if n = 0 then s.mapCore fun c => c.later .s 1 [.h f.sa.toNat (r &&& ~~~(4 : W64))] else s

/-- HUNPIN. -/
def execHunpin (f : RForm) (s : State) : Result :=
  guarded (s.core.rp f.pg.toNat) s fun s => s.orTrap (hunpinTrap f s) (hunpinEffect f)

/-- HNULL (R84). -/
def execHnull (f : RForm) (s : State) : Result :=
  guarded (s.core.rp f.pg.toNat) s fun s => s.mapCore fun c => c.later .s 1 [.h f.sd.toNat 0]

/-! ## The reply of the yard -/

/-- The core in focus runs again after a freeze or a wait: the next bundle issues no earlier than the next cc (R204, R209). -/
def Core.resume (c : Core) : Core :=
  { c with run := c.resumeTo, resumeTo := .running, notBefore := max c.notBefore (c.clk + 1), frozenFor := 0 }

/-- A freeze that ends: its record, and the core runs (R209, R218). -/
def State.thaw (s : State) : State := (s.trace 3 (min s.core.frozenFor 65535) s.core.pos).mapCore Core.resume

/-- A moved object whose copy is still under way in its region's batch (R85 step 1). -/
def Region.relaying (g : Region) (addr : Nat) : Bool :=
  g.jobs.any fun j => match j with
    | .batch b => b.step.isSome && b.active.any fun m => !m.skipped && (m.dst == addr || m.src == addr) &&
        !(List.range (ceilDiv m.size 512)).all fun i => m.copied.contains i
    | _ => false

/-- The blocks of an access to a moved object that its batch has not copied yet, as (object, block) (R326 step 3). -/
def Region.pendingBlocks (g : Region) (addr lo len : Nat) : List (Nat × Nat) :=
  g.jobs.flatMap fun j => match j with
    | .batch b => if b.step.isNone then [] else b.active.flatMap fun m =>
        if m.skipped || m.dst != addr || len == 0 then []
        else ((List.range ((lo + len - 1) / 512 + 1 - lo / 512)).map (· + lo / 512)).filterMap fun i =>
          if m.copied.contains i || decide (m.size ≤ 512 * i) then none else some (m.dst, i)
    | _ => []

/-- The size in bytes of the object at an address, while its batch copies it too: the size its header gave at the flip (R326). -/
def State.presentBytes (s : State) (ctx : Nat) (g : Region) (addr : Nat) : Nat :=
  let ms := g.jobs.flatMap fun (j : YardJob) => match j with
    | .batch b => if b.step.isNone then [] else b.active
    | .advance _ _ => []
  match ms.find? fun m => !m.skipped && m.dst == addr with
  | some m => m.size
  | none => s.objBytes ctx addr

/-- HLD's reply (R82): the reference that the lookup found, with the epoch of that moment (R327), and the compare-and-write of the
slot. -/
def hldReply (w : YardWait) (s : State) : State :=
  let r2 := w.res
  (s.thaw.mapCore fun c =>
    let c := c.wh w.dst r2
    if c.poolNat w.off 8 = w.ref.toNat then c.poolWrite (cellsAt w.off (bytesOf 8 r2.toNat)) else c).settle

/-- HPIN's reply (R85): the core stays frozen while the object is being copied; then the count of its present copy rises, or
PIN-OVERFLOW. -/
def hpinReply (w : YardWait) (g : Region) (s : State) : State :=
  let a := g.forward (refAddr w.res)
  if g.relaying a then
    let (d, s) := s.free Config.work
    (s.mapCore fun c => { c with run := .frozen (.yard { w with due := s.now + d + 1 }) }).after (d + 1) (some s.core.ref)
      (.yardLookupReply none)
  else if s.pinCount g.key.ctx a = 255 then s.thaw.takeTrap ⟨0x000D, .s, w.ref.toNat⟩
  else
    let s := s.setPin g.key.ctx a (s.pinCount g.key.ctx a + 1)
    s.thaw.mapCore fun c =>
      (c.ws w.dst (BitVec.ofNat 64 a)).wh w.hreg (refWith (w.ref ||| 4) a g.epoch)

/-- The reply to a frozen core; any other state of the core leaves it as it is, for the freeze has ended (R342). -/
def yardReplyCore (s : State) : State :=
  match s.core.run with
  | .frozen (.yard w) =>
    if s.now < w.due then s
    else match s.region? w.region with
    | some g => if w.pin then hpinReply w g s else hldReply w s
    | none => s.thaw
  | _ => s

end Sys2Proof.Machine
end

