-- ==== Sys2Proof/Machine/Tokens.lean ====
section
/-! DEFINITION. Dependence tokens and completion handles (R53, R90, R91): naming them, completing them, what an operation waits
on, and the waking of a core whose wait or freeze has ended. -/

namespace Sys2Proof.Machine

/-- The operation that a token stood for before the present bundle (R46). -/
def Core.ownerOf (c : Core) (t : Nat) : Nat := if c.first ≤ (c.rt t).owner then (c.rt t).prev else (c.rt t).owner

/-- Whether an operation has not completed locally. -/
def Core.isOpen (c : Core) (id : Nat) : Bool :=
  c.mq.any (fun o => o.id == id) || c.ops.any fun o => o.id == id && o.stage != .localDone

/-- The operations that TI1 to TI3 wait on; a TI equal to TO names none (R53). -/
def Core.waitsOf (c : Core) (tO : BitVec 6) (ts : List (BitVec 6)) : List Nat :=
  ((ts.filter fun t => t != tO).map fun t => c.ownerOf t.toNat).filter fun id => c.isOpen id

/-- Whether everything an operation waits on has completed. -/
def Core.waitsOver (c : Core) (ws : List Nat) : Bool := !ws.any fun id => c.isOpen id

/-- A token named by an operation: not done, status 0, its mark cleared; an error it still carried is counted (R90, R397).
[DEDUCED: log 25, 54] -/
def Core.nameToken (c : Core) (now t id : Nat) : Core :=
  let c := c.loseToken now t
  let k := c.rt t
  c.wt t { k with done := false, status := 0, owner := id, prev := c.ownerOf t, va := 0, awaited := false }

/-- A handle named by an operation: pending (R91). -/
def Core.nameHandle (c : Core) (now h id : Nat) : Core :=
  let c := c.loseHandle now h
  c.wc h { st := .pending, status := 0, owner := id, awaited := false }

/-- A token copy that follows an operation, changed. -/
def onOwner (l : List (Nat × Token)) (id : Nat) (f : Token → Token) : List (Nat × Token) :=
  l.map fun kv => if kv.2.owner = id then (kv.1, f kv.2) else kv

/-- A handle copy that follows an operation, changed. -/
def onHandleOwner (l : List (Nat × Handle)) (id : Nat) (f : Handle → Handle) : List (Nat × Handle) :=
  l.map fun kv => if kv.2.owner = id then (kv.1, f kv.2) else kv

/-- An operation's token, its brace copy and the token of a wait changed: a copy goes on following its operation (R46, R343). [DEDUCED: log 113] -/
def Core.onToken (c : Core) (id : Nat) (f : Token → Token) : Core :=
  { c with tok := onOwner c.tok id f, brace := { c.brace with tok := onOwner c.brace.tok id f },
           waited := if c.waited.owner = id then f c.waited else c.waited }

/-- An operation's handle and its brace copy changed. -/
def Core.onHandle (c : Core) (id : Nat) (f : Handle → Handle) : Core :=
  { c with hnd := onHandleOwner c.hnd id f, brace := { c.brace with hnd := onHandleOwner c.brace.hnd id f } }

/-- An operation's promise set (R90, R149). -/
def Core.promise (c : Core) (id : Nat) (p : W64) : Core := c.onToken id fun t => { t with promise := p }

/-- An operation's token done with a status and the VA of its first failing byte (R90). -/
def Core.tokenDone (c : Core) (id status va : Nat) : Core :=
  c.onToken id fun t => { t with done := true, status := status, va := va }

/-- The trap a done token's status raises: DATA-POISONED, ACCESS-FAULT or SEALED-WRITE (R90, R73). -/
def statusTrap (t : Nat) (k : Token) : Option Trap :=
  if k.status = 0 then none else some ⟨0x0007 + k.status, .s, t ||| (k.va % 2 ^ 49) <<< 8⟩

/-- HANDLE-ERROR (R73, R91). -/
def handleTrap (n : Nat) (h : Handle) : Option Trap := if h.status = 0 then none else some ⟨0x000B, .s, n ||| h.status <<< 8⟩

/-- The core goes to a wait or a sleep on a token, which it follows as the token stood before the bundle (R46, R90). -/
def Core.waitOn (c : Core) (t : Nat) (r : RunState) : Core := { c with run := r, waited := c.rt t }

/-- The end of a wait on token `t`, followed as `k` and done: the core runs on, or the token's error is raised and marked awaited (R90,
R397). -/
def State.endTokenWait (s : State) (t : Nat) (k : Token) : State :=
  match statusTrap t k with
  | none => s.mapCore Core.resume
  | some tr => (s.mapCore fun c => c.resume.onToken k.owner fun k => { k with awaited := true }).takeTrap tr

/-- WAITR's end: a status of 0 makes the handle idle, another is raised and marked awaited (R91, R397). -/
def State.endHandleWait (s : State) (n : Nat) : State :=
  let h := s.core.rc n
  match h.st with
  | .idle => s.mapCore Core.resume
  | _ => match handleTrap n h with
    | none => s.mapCore fun c => c.resume.wc n { h with st := .idle }
    | some tr => (s.mapCore fun c => c.resume.wc n { h with awaited := true }).takeTrap tr

/-- The core in focus wakes where what it waits for has happened (R90, R91, R209). -/
def State.wake (s : State) : State :=
  match s.core.run with
  | .waitToken t => if s.core.waited.done then s.endTokenWait t s.core.waited else s
  | .frozen (.token t) => if s.core.waited.done then s.thaw.endTokenWait t s.core.waited else s
  | .waitLocal n => if (s.core.rc n).st == .pending then s else s.mapCore Core.resume
  | .waitRemote n =>
    if (s.core.rc n).st == .pending || (s.core.rc n).st == .localDone then s else s.endHandleWait n
  | _ => s

end Sys2Proof.Machine
end

