-- ==== Sys2Proof/Machine/Weather.lean ====
section
/-! DEFINITION. Weathered values (R302 to R313): ages, the factor, the STEP an agent sees, the counters of a bay, and one line
brought to a step, restamped, accumulated or merged. -/

namespace Sys2Proof.Machine

/-! ## STEP (R308, R309) -/

/-- What an agent of a core does not see yet of a context's recent advances, in the order in which they were added: it sees each that
its own core released in an earlier bundle, each that is 32 cc old, and all that were added before one it sees; of the others, none of
this cc, and as many of the first as free choices make it (R309). [DESIGN CHOICE: log 36] -/
def unseen (c : Core) (now k : Nat) : List (Nat × Nat × W64) → W64
  | [] => 0
  | e :: rest =>
    if (e :: rest).any fun r => decide (r.1 < now) && (r.2.1 == c.ref || decide (r.1 + 32 ≤ now)) then unseen c now k rest
    else if decide (e.1 < now) && !Config.choice k then unseen c now (k + 1) rest
    else (e :: rest).foldl (fun n r => n + r.2.2) 0

/-- STEP as the core in focus sees it (R96, R309). -/
def State.stepSeen (s : State) : W64 × State :=
  match s.ctx? s.myCtx with
  | none => (0, s)
  | some x => (x.step - unseen s.core s.now s.fresh x.recent, { s with fresh := s.fresh + x.recent.length })

/-! ## Ages and factors (R304 to R306) -/

/-- The age of a stamp, and whether the stamp lies ahead (R121). -/
def ageOf (step : W64) (stamp : Nat) : Nat × Bool :=
  let a := (step.toNat + 2 ^ 24 - stamp % 2 ^ 24) % 2 ^ 24
  if 2 ^ 23 ≤ a then (0, true) else (a, false)

/-- Word i of rate k; an unset word is 1.0 (R305). -/
def Context.power (x : Context) (k i : Nat) : W32 := Sparse.get 0x3F800000 x.rates (k * 24 + i)

/-- A product of two binary32 codes rounded to nearest even. -/
def mulF32 (x y : Nat) : Nat × Flags := shF32.round false ((shF32.decodeIeee x).mul (shF32.decodeIeee y))

/-- A sum of two binary32 codes rounded to nearest even. -/
def addF32 (x y : Nat) : Nat × Flags := shF32.round false ((shF32.decodeIeee x).add (shF32.decodeIeee y))

/-- F(age, rate) of R306 as a binary32 code, with the flags of its roundings. -/
def Context.factor (x : Context) (age rate : Nat) : Nat × Flags :=
  (List.range 23).foldl (fun (f : Nat × Flags) i =>
    if bitOf i age then
      let r := mulF32 f.1 (x.power rate i).toNat
      (r.1, f.2.or r.2)
    else f) (0x3F800000, {})

/-! ## Counters (R313) -/

/-- A context's weathering record in a bay changed. -/
def State.onWeather (s : State) (ctx bay : Nat) (f : Weathering → Weathering) : State :=
  s.onCtx ctx fun x => { x with weathering := Sparse.set {} x.weathering bay (f (Sparse.get {} x.weathering bay)) }

/-- Stamp-ahead events and malformed lines counted. -/
def State.countLines (s : State) (ctx bay ahead bad : Nat) : State :=
  if ahead = 0 ∧ bad = 0 then s
  else s.onWeather ctx bay fun w =>
    { w with stahead := w.stahead + BitVec.ofNat 64 ahead, malformed := min (w.malformed + bad) (2 ^ 32 - 1) }

/-! ## Lines (R302, R303) -/

/-- ZL of a header. -/
def hdrZero (h : Nat) : Bool := bitOf 31 h
/-- FMT. -/
def hdrFmt (h : Nat) : Nat := field 30 29 h
/-- RATE. -/
def hdrRate (h : Nat) : Nat := field 28 24 h
/-- STAMP. -/
def hdrStamp (h : Nat) : Nat := field 23 0 h
/-- A header from its fields. -/
def mkHdr (zl : Bool) (fmt rate stamp : Nat) : Nat := (if zl then 2 ^ 31 else 0) + fmt % 4 * 2 ^ 29 + rate % 32 * 2 ^ 24 + stamp % 2 ^ 24

/-- The header of 128 bytes. -/
def lineHdr (l : List Byte) : Nat := natOf (l.take 4)

/-- The values of a line in its format, as binary32 codes: 31 of f32 or 62 of bf16 (R302). -/
def lineVals (fmt : Nat) (l : List Byte) : List Nat :=
  if fmt = 0 then (List.range 31).map fun e => natOf ((l.drop (4 * e + 4)).take 4)
  else (List.range 62).map fun e => natOf ((l.drop (2 * e + 4)).take 2) * 2 ^ 16

/-- A binary32 code rounded to a value of a line's format: itself for f32, bf16 for fmt 1. -/
def toLineVal (fmt x : Nat) : Nat × Flags := if fmt = 0 then (x, {}) else shBf16.round false (shF32.decodeIeee x, false)

/-- The bytes of a line. -/
def mkLine (hdr fmt : Nat) (vals : List Nat) : List Byte := bytesOf 4 hdr ++ (vals.map (bytesOf (if fmt = 0 then 4 else 2))).flatten

/-- What handling a line gives: the line, flags, stamp-ahead events, malformed lines. -/
structure LineOut where
  line : List Byte
  flags : Flags
  ahead : Nat
  bad : Nat
  deriving DecidableEq, Repr

/-- R166: a line as a get delivers it at a step. -/
def Context.getLine (x : Context) (step : W64) (l : List Byte) : LineOut :=
  let h := lineHdr l
  let fmt := hdrFmt h
  if 2 ≤ fmt then ⟨l, {}, 0, 1⟩
  else
    let hdr := mkHdr false fmt (hdrRate h) step.toNat
    if hdrZero h then ⟨mkLine hdr fmt ((lineVals fmt l).map fun _ => 0), {}, 0, 0⟩
    else
      let (age, ahead) := ageOf step (hdrStamp h)
      let (f, fl) := x.factor age (hdrRate h)
      let vs := (lineVals fmt l).map fun v =>
        let r := mulF32 v f
        let t := toLineVal fmt r.1
        (t.1, r.2.or t.2)
      ⟨mkLine hdr fmt (vs.map (·.1)), fl.or (Flags.join (vs.map (·.2))), if ahead then 1 else 0, 0⟩

/-- R167: a pool line as a put writes it: restamped, other header fields as they stand. A pool header whose stamp lies ahead counts
once per line, as R304 lists a put. [DEDUCED: log 32] -/
def putLine (step : W64) (l : List Byte) : LineOut :=
  let h := lineHdr l
  if 2 ≤ hdrFmt h then ⟨l, {}, 0, 1⟩
  else ⟨bytesOf 4 (mkHdr (hdrZero h) (hdrFmt h) (hdrRate h) step.toNat) ++ l.drop 4, {},
    if (ageOf step (hdrStamp h)).2 && !hdrZero h then 1 else 0, 0⟩

/-- R167: a pool line accumulated into a memory line. -/
def Context.accLine (x : Context) (step : W64) (m p : List Byte) : LineOut :=
  let h := lineHdr m
  let fmt := hdrFmt h
  if 2 ≤ fmt then ⟨m, {}, 0, 1⟩
  else
    let (age, ahead) := ageOf step (hdrStamp h)
    let (f, _) := x.factor age (hdrRate h)
    let vs := (lineVals fmt m).zipWith (fun o a =>
      (toLineVal fmt (addF32 (if hdrZero h then 0 else (mulF32 o f).1) a).1).1) (lineVals fmt p)
    ⟨mkLine (mkHdr false fmt (hdrRate h) step.toNat) fmt vs, {}, if ahead && !hdrZero h then 1 else 0, 0⟩

/-- R311: a line as the sweeper leaves it, with whether it became a zero-line by underflow and whether it was swept; none where it is
left. -/
def Context.sweepLine (x : Context) (step : W64) (l : List Byte) : Option (List Byte × Bool × Bool) × Nat × Nat :=
  let h := lineHdr l
  let fmt := hdrFmt h
  if 2 ≤ fmt then (none, 0, 1)
  else
    let (age, ahead) := ageOf step (hdrStamp h)
    let ah := if ahead && !hdrZero h then 1 else 0
    if age ≤ 2 ^ 22 then (none, ah, 0)
    else if hdrZero h then
      (some (bytesOf 4 (mkHdr true fmt (hdrRate h) step.toNat) ++ l.drop 4, false, false), ah, 0)
    else
      let (f, _) := x.factor age (hdrRate h)
      if f = 0 then (some (mkLine (mkHdr true fmt (hdrRate h) step.toNat) fmt ((lineVals fmt l).map fun _ => 0), true, true), ah, 0)
      else
        (some (mkLine (mkHdr false fmt (hdrRate h) step.toNat) fmt ((lineVals fmt l).map fun v => (toLineVal fmt (mulF32 v f).1).1),
          false, true), ah, 0)

end Sys2Proof.Machine
end

