-- ==== Sys2Proof/Machine/Engine.lean ====
section
/-! DEFINITION. What the C-slot operations share (R147 to R154, R173 to R176): descriptors and their checks at issue, colours,
outward effects and withholding, issue, the translation of the bytes an operation names, and refusals. -/

namespace Sys2Proof.Machine

/-! ## Descriptors (R147, R173) -/

/-- Bytes of the descriptor or record of an opcode, and whether a[AP] names it rather than s[SY]. -/
def descLen (opc : Nat) : Nat × Bool :=
  if opc = 0x20 then (64, true)
  else if opc = 0x80 then (128, true)
  else if (3 ≤ opc ∧ opc ≤ 6) ∨ (0x40 ≤ opc ∧ opc ≤ 0x4B) ∨ (0x60 ≤ opc ∧ opc ≤ 0x62) ∨ opc = 0x65 ∨ opc = 0x73 ∨ opc = 0x74 then
    (32, false)
  else (0, false)

/-- The descriptor or record that an operation reads at issue. -/
def Core.descOf (c : Core) (opc : Nat) (f : CForm) : BitVec 1024 :=
  let (n, rec) := descLen opc
  BitVec.ofNat 1024 (c.poolNat (if rec then aOff (c.ra f.ap.toNat) else (c.rs f.sy.toNat).toNat) n)

/-- The access descriptor that a CTRIG reads at ODSC (R188). -/
def Core.desc2Of (c : Core) (opc : Nat) (d : BitVec 1024) : BitVec 256 :=
  if opc = 0x65 then BitVec.ofNat 256 (c.poolNat (field 151 128 d.toNat) 32) else 0

/-- Bits [hi:lo] that must be zero: each set bit offends. [DEDUCED: log 39] -/
def mustZero (hi lo n : Nat) : List (Nat × Bool) := (List.range (hi + 1 - lo)).map fun i => (lo + i, bitOf (lo + i) n)

/-- Bits that must be zero in one case. -/
def zeroIf (p : Bool) (hi lo n : Nat) : List (Nat × Bool) := if p then mustZero hi lo n else []

/-- The element bytes of a DTY (R180); 0 for a code that faults. -/
def dtyBytes (d : Nat) : Nat := match d with | 0 => 4 | 1 => 4 | 2 => 4 | 3 => 2 | 5 => 8 | 6 => 128 | _ => 0

/-- Whether an AOP is allowed: add, max and min on every type, and, or and xor on integers (R180). -/
def aopOk (aop dty : Nat) : Bool := aop < 3 || (4 ≤ aop && aop ≤ 6 && (dty == 1 || dty == 2 || dty == 5))

/-- The checks of an access descriptor under an opcode (R180, R183). [DEDUCED: log 109] -/
def accessChecks (opc n : Nat) : List (Nat × Bool) :=
  let dty := field 34 32 n
  let aop := field 38 35 n
  let len := field 151 128 n
  let plain := opc == 0x42 || opc == 0x43
  let atomic := 0x60 ≤ opc
  mustZero 191 152 n ++ mustZero 63 51 n ++ mustZero 39 39 n ++ mustZero 23 21 n ++ zeroIf (opc != 0x61) 255 192 n ++
    zeroIf (!bitOf 50 n) 49 40 n ++
    [(35, aop == 3 || 6 < aop), (32, dty == 4 || dty == 7),
     (35, plain && aop != 0), (32, plain && dty != 0 && dty != 6),
     (35, (opc == 0x44 || opc == 0x60) && !aopOk aop dty), (128, opc == 0x44 && len % dtyBytes dty != 0),
     (32, atomic && !(dty == 0 || dty == 1 || dty == 2 || dty == 5)), (128, atomic && len != (if dty = 5 then 8 else 4))]

/-- The checks of an epoch descriptor: a field the operation does not use must be zero (R184). -/
def epochChecks (opc n : Nat) : List (Nat × Bool) :=
  mustZero 255 109 n ++ mustZero 95 93 n ++ mustZero 79 77 n ++ mustZero 63 34 n ++ mustZero 26 21 n ++
    (if opc = 0x46 ∨ opc = 0x47 then [] else mustZero 108 96 n ++ mustZero 92 80 n ++ mustZero 76 64 n) ++
    zeroIf (opc != 0x45) 33 33 n ++ zeroIf (opc != 0x4A) 32 32 n ++ zeroIf (opc != 0x4A && opc != 0x4B) 20 8 n

/-- The checks of a descriptor or record by opcode, as (bit position, broken). [DEDUCED: log 41, 42] -/
def descChecks (opc n : Nat) : List (Nat × Bool) :=
  let above (p hi lo : Nat) : Nat × Bool := (p, decide (64 < field hi lo n))
  if opc = 0x03 then mustZero 255 132 n ++ zeroIf (!bitOf 131 n) 130 128 n
  else if opc = 0x04 then
    mustZero 255 192 n ++ mustZero 127 104 n ++ zeroIf (!bitOf 79 n) 191 128 n ++
      [above 48 54 48, above 55 61 55, above 64 70 64, above 71 77 71]
  else if opc = 0x05 then
    mustZero 191 176 n ++ mustZero 127 75 n ++
      [above 48 54 48, above 55 61 55, (48, field 63 62 n == 0 && bitOf 48 n), (55, field 63 62 n == 0 && bitOf 55 n)]
  else if opc = 0x06 then mustZero 255 88 n ++ mustZero 71 69 n ++ zeroIf (!bitOf 68 n) 87 72 n ++ zeroIf (!bitOf 64 n) 67 65 n
  else if opc = 0x20 then
    mustZero 511 256 n ++ mustZero 31 12 n ++ zeroIf (field 7 0 n == 6) 11 11 n ++
      [(0, field 7 0 n == 0 || 6 < field 7 0 n), (32, decide (2 ^ 24 < field 63 32 n))]
  else if opc = 0x40 then
    mustZero 127 80 n ++ mustZero 71 69 n ++ mustZero 55 53 n ++ mustZero 39 37 n ++ mustZero 23 23 n ++ mustZero 15 13 n ++
      [(56, field 68 56 n == 0), (40, field 52 40 n == 0), (16, decide (12 < field 19 16 n))]
  else if (0x42 ≤ opc ∧ opc ≤ 0x44) ∨ (0x60 ≤ opc ∧ opc ≤ 0x62) then accessChecks opc n
  else if 0x45 ≤ opc ∧ opc ≤ 0x4B then epochChecks opc n
  else if opc = 0x65 then
    mustZero 191 184 n ++ mustZero 159 152 n ++ mustZero 127 32 n ++ mustZero 15 10 n ++
      [(24, !(0x42 ≤ field 31 24 n && field 31 24 n ≤ 0x44))]
  else if opc = 0x73 ∨ opc = 0x74 then
    mustZero 191 50 n ++ zeroIf (opc == 0x73) 255 192 n ++ zeroIf (opc == 0x74) 46 43 n ++
      [(40, !(field 42 40 n == 0 || field 42 40 n == 1 || field 42 40 n == 2 || field 42 40 n == 5)),
       (43, opc == 0x73 && !aopOk (field 46 43 n) (field 42 40 n))]
  else if opc = 0x80 then
    mustZero 895 888 n ++ mustZero 863 845 n ++ mustZero 831 819 n ++ mustZero 799 794 n ++
      ((List.range 6).map fun l => mustZero (128 * l + 127) (128 * l + 108) n).flatten ++
      (List.range 6).map (fun l => (128 * l + 80, field (128 * l + 81) (128 * l + 80) n == 3)) ++
      [(832, field 844 832 n == 0), (792, field 793 792 n == 3),
       (788, !(field 790 788 n == 0 || field 790 788 n == 1 || field 790 788 n == 3)), (784, 2 < field 787 784 n)]
  else []

/-- ILLEGAL-FORMAT of a descriptor: TRAPINFO as R147 lays it out. -/
def descTrap (u : CUnit) (armed : Bool) (p : Nat) : Trap :=
  ⟨0x0002, cslot u, 0x3F ||| (p % 64) <<< 8 ||| (p / 64) <<< 14 ||| bit armed <<< 18⟩

/-- The trap a C-slot operation takes at issue, if any: a misaligned loop-nest record, the descriptor, then the descriptor that a
CTRIG arms. [DEDUCED: log 40] -/
def cTrap (opc : Nat) (f : CForm) (s : State) : Option Trap :=
  let c := s.core
  let d := c.descOf opc f
  if opc = 0x80 ∧ aOff (c.ra f.ap.toNat) % 128 ≠ 0 then some (descTrap f.unit false 0)
  else match lowestBroken' (descChecks opc d.toNat) with
    | some p => some (descTrap f.unit false p)
    | none =>
      if opc = 0x65 then (lowestBroken' (accessChecks (field 31 24 d.toNat) (c.desc2Of opc d).toNat)).map (descTrap f.unit true)
      else none
where
  /-- The lowest broken position. -/
  lowestBroken' (l : List (Nat × Bool)) : Option Nat :=
    (l.filter (·.2)).foldl (fun m x => match m with | none => some x.1 | some p => some (min p x.1)) none

/-! ## Kinds of operation -/

/-- Whether an opcode is a window access or a remote atomic (R181, R183). -/
def isAccess (opc : Nat) : Bool := (0x42 ≤ opc && opc ≤ 0x44) || (0x60 ≤ opc && opc ≤ 0x62)

/-- Whether an opcode is a create, a free or an epoch operation (R178, R179, R185). -/
def isEpoch (opc : Nat) : Bool := opc == 0x40 || opc == 0x41 || (0x45 ≤ opc && opc ≤ 0x4B)

/-- Whether an operation's effect is outward, and so withheld (R152, R176). -/
def isOutward (opc : Nat) (d : Nat) : Bool :=
  match opc with
  | 0x03 => bitOf 131 d
  | 0x06 => bitOf 64 d
  | 0x42 => false
  | _ => [0x02, 0x05, 0x20, 0x22, 0x23, 0x31, 0x32, 0x63, 0x65, 0x66, 0x70, 0x71, 0x73, 0x74, 0x80].contains opc || isAccess opc ||
      isEpoch opc

/-- Whether local completion itself awaits the release (R175). -/
def awaitsRelease (opc : Nat) : Bool :=
  isEpoch opc || (0x60 ≤ opc && opc ≤ 0x62) || [0x63, 0x65, 0x66, 0x70, 0x71, 0x73, 0x74, 0x80].contains opc

/-- Whether an operation is a store that fences cover (R169, R176, R267). -/
def isStore (opc d : Nat) : Bool := isOutward opc d && !isEpoch opc && opc != 0x65 && opc != 0x66

/-- Whether an operation is a get: it brings bytes into this core's pool (R150, R267, R268). -/
def isGet (opc d : Nat) : Bool :=
  [0x01, 0x04, 0x21, 0x30, 0x42].contains opc || ((opc == 0x03 || opc == 0x06) && !isOutward opc d)

/-- The colour of a store (R267). -/
def colourOf (opc d : Nat) : Nat :=
  match opc with
  | 0x03 => field 130 128 d
  | 0x05 => field 74 72 d
  | 0x06 => field 67 65 d
  | 0x20 => field 10 8 d
  | 0x73 => field 49 47 d
  | 0x74 => field 49 47 d
  | 0x80 => field 783 781 d
  | _ => if isAccess opc then field 26 24 d else 0

/-- The handle of a descriptor. -/
def handleOf (opc d d2 : Nat) : Option Nat :=
  if opc = 0x40 ∨ opc = 0x41 then some (field 12 8 d)
  else if isAccess opc ∨ isEpoch opc then some (field 31 27 d)
  else if opc = 0x80 then some (field 780 776 d)
  else if opc = 0x65 then some (field 31 27 d2)
  else none

/-- The handle an instruction of the C slot names, as its descriptor reads now. -/
def Core.namedHandle (c : Core) (opc : Nat) (f : CForm) : Option Nat :=
  let d := c.descOf opc f
  handleOf opc d.toNat (c.desc2Of opc d).toNat

/-- The window id an operation names. -/
def winOf (opc d : Nat) : Option Nat :=
  if opc = 0x80 then some (field 775 768 d) else if isAccess opc || isEpoch opc then some (field 7 0 d) else none

/-- A bay of the domain: module × 8 + bay. -/
def State.globalBay (s : State) (bay : Nat) : Nat := s.node.toNat * 8 + bay

/-- The ordinal of a bay in a kernel (R13). -/
def Kernel.ordOf (k : Kernel) (gbay : Nat) : Option Nat := (List.range k.ords.length).find? fun i => k.ords[i]? == some gbay

/-- The queue counter that a kernel's selector id names: the queue, and whether it is FILL (R370). -/
def State.queueOf (s : State) (k id : Nat) : Option (Nat × Nat × Bool) :=
  match s.kernel? k with
  | none => none
  | some k => (k.queues.find? fun b => b.freeId == id || b.fillId == id).map fun b => (k.ctx, b.qid, b.fillId == id)

/-- The counter that a selector names: the bay of the domain and the id, or none where R186 refuses it. The bay fields are ignored
where the id names a queue counter (R370). -/
def State.selector (s : State) (x : W64) : Option (Nat × Nat) :=
  match s.mine with
  | none => none
  | some k =>
    let n := x.toNat
    let id := field 9 0 n
    let own := s.globalBay (bayOf s.core.ref)
    if field 15 10 n ≠ 0 ∨ field 30 29 n ≠ 0 ∨ field 63 32 n ≠ 0 then none
    else if (s.queueOf k.seq id).isSome then some (own, id)
    else if !bitOf 31 n then (if field 28 16 n = 0 ∨ decide (field 28 16 n < k.ords.length) then some (own, id) else none)
    else match k.ords[field 28 16 n]? with
      | some g => some (g, id)
      | none => none

/-- What an operation names beside a window: the counter that its selector gives, or the place of its barrier object (R176, R22). -/
def State.objectOf (s : State) (opc : Nat) (x area : W64) : Nat :=
  if opc = 0x63 ∨ opc = 0x64 then match s.selector x with | some (g, id) => g * 1024 + id + 1 | none => 0
  else if 0x70 ≤ opc ∧ opc ≤ 0x72 then match s.core.place (aOff area) with | some p => p + 1 | none => 0
  else 0

/-- Whether two operations name the same window, counter or barrier object (R176). A counter is named by a CNTINC and a barrier object by
BARINIT and BARARR alone: a put with RCE names its window, a BAYADD or BAYCAS a word of a pool. [DESIGN CHOICE: log 163] -/
def COp.sameObject (o p : COp) : Bool :=
  if o.opc = 0x64 then p.opc == 0x63 && p.addr == o.addr
  else if o.opc = 0x72 then (p.opc == 0x70 || p.opc == 0x71) && p.addr == o.addr
  else match winOf o.opc o.desc.toNat, winOf p.opc p.desc.toNat with
    | some a, some b => a == b
    | _, _ => false

/-- The operations before one in the core's list. -/
def earlierOps (id : Nat) (ops : List COp) : List COp := ops.filter fun p => decide (p.id < id)

/-- A non-outward operation is held behind a withheld one on its object (R176). -/
def Core.heldBehind (c : Core) (o : COp) : Bool :=
  !o.outward && (earlierOps o.id c.ops).any fun p => p.outward && !p.released && o.sameObject p

/-! ## Transfer size (R149, R175) -/

/-- Bits of a container by ESZ (R157). -/
def eszBits (n : Nat) : Nat := 4 * 2 ^ n

/-- Pool pitch of a CPTILE or CPPAIR: PPIT, or the natural pitch of 64 containers. -/
def eszPitch (ppit esz : Nat) : Nat := if ppit = 0 then 8 * eszBits esz else 32 * ppit

/-- The length in bytes that an operation's register or descriptor gives. -/
def COp.len (o : COp) : Nat :=
  let d := o.desc.toNat
  match o.opc with
  | 0x06 => field 47 24 d
  | 0x30 => field 62 32 o.y.toNat
  | 0x31 => field 62 32 o.y.toNat
  | 0x32 => field 62 32 o.y.toNat
  | _ => if isAccess o.opc then field 151 128 d else o.y.toNat

/-- Rows and columns of a CPTILE source that are valid: VROW′ and VCOL′ (R158). -/
def tileValid (d : Nat) : Nat × Nat := (min (field 70 64 d) (field 54 48 d), min (field 77 71 d) (field 61 55 d))

/-- Pool bytes of a CPTILE block (R149, R158). -/
def tileBytes (d : Nat) : Nat :=
  let w := eszBits (field 63 62 d)
  let rows := field 54 48 d
  let cols := field 61 55 d
  (if bitOf 78 d then cols * ceilDiv (rows * w) 8 else rows * ceilDiv (cols * w) 8) + (if bitOf 79 d then 128 else 0)

/-- Transfers of a loop nest, at most (R197). -/
def nestSize (d : Nat) : Nat := (List.range 6).foldl (fun n l => n * max (field (128 * l + 15) (128 * l) d) 1) 1

/-- N and nrow of R149 for a copy, a fill or an access. -/
def COp.size (o : COp) : Nat × Nat :=
  let d := o.desc.toNat
  match o.opc with
  | 0x03 => (field 15 0 d * field 39 16 d, field 15 0 d)
  | 0x04 => (tileBytes d, (tileValid d).1)
  | 0x05 => (field 54 48 d * ceilDiv (field 61 55 d * eszBits (field 63 62 d)) 8, field 54 48 d)
  | 0x20 => (64, 0)
  | _ => (o.len, 0)

/-- T of R149 and R175, of what a copy still has to move (R355). -/
def COp.cost (o : COp) : Nat :=
  let d := o.desc.toNat
  if o.opc = 0x80 then ceilDiv (nestSize d * field 887 864 d) 128
  else if o.opc = 0x78 ∨ o.opc = 0x79 ∨ isEpoch o.opc ∨ o.opc = 0x65 ∨ o.opc = 0x66 ∨ o.opc = 0x81 then 0
  else if 0x60 ≤ o.opc then 1
  else ceilDiv (o.size.1 - o.moved) 128 + o.size.2

/-- Whether an operation of R149 moves no byte and is not a fence (R154). -/
def COp.empty (o : COp) : Bool :=
  let d := o.desc.toNat
  match o.opc with
  | 0x03 => field 15 0 d * field 39 16 d == 0
  | 0x04 => tileBytes d == 0
  | 0x05 => field 54 48 d == 0 || field 61 55 d == 0
  | 0x20 => field 63 32 d == 0
  | _ => if o.opc < 0x40 then o.len == 0 else false

/-! ## Issue (R147) -/

/-- Pool runs that an operation accesses through a[AP], for its reserved set (R151, R206). -/
def poolRuns (opc : Nat) (off len d : Nat) : List (Nat × Nat) :=
  let n := min len (2 ^ 24)
  match opc with
  | 0x03 => (List.range (field 15 0 d)).map fun r => ((off + r * field 63 40 d) % 2 ^ 24, field 39 16 d)
  | 0x04 =>
    let w := eszBits (field 63 62 d)
    let p := eszPitch (field 87 80 d) (field 63 62 d)
    let nr := if bitOf 78 d then field 61 55 d else field 54 48 d
    let nc := if bitOf 78 d then field 54 48 d else field 61 55 d
    ((List.range nr).map fun r => (off + r * p, ceilDiv (nc * w) 8)) ++ (if bitOf 79 d then [(off + 64 * p, 128)] else [])
  | 0x05 =>
    let p := eszPitch (field 71 64 d) (field 63 62 d)
    (List.range (field 54 48 d)).map fun r => (off + r * p, ceilDiv (field 61 55 d * eszBits (field 63 62 d)) 8)
  | 0x20 => [(off, 64)]
  | 0x64 => [(off, 8)]
  | 0x81 => [(off, 32)]
  | 0x73 => [(off, if field 42 40 d = 5 then 8 else 4)]
  | 0x74 => [(off, if field 42 40 d = 5 then 8 else 4)]
  | _ =>
    if [0x01, 0x02, 0x06, 0x07, 0x21, 0x22, 0x23, 0x30, 0x31, 0x32].contains opc || isAccess opc then [(off, n)] else []

/-- Whether an operation reads STEP at issue (R165, R181). -/
def readsStep (opc d : Nat) : Bool :=
  opc == 0x20 || (0x21 ≤ opc && opc ≤ 0x23) || (isAccess opc && field 34 32 d == 6) || opc == 0x65

/-- The window tag of the agent's engine: FI and OPEN (R247). -/
def State.tagOf (s : State) (win : Nat) : Nat × Bool :=
  match s.windows.find? fun w => w.key == ⟨bayOf s.core.ref, s.myCtx, win⟩ with
  | some w => (w.agFi, w.agOpen)
  | none => (0, false)

/-- The parts of an access by target rank: (target rank, local offset, first byte, bytes); a striped one is split at every 256 bytes
(R253). -/
def accessParts (w : Window) (tgt off len : Nat) : List (Nat × Nat × Nat × Nat) :=
  if !w.str then [(tgt, off, 0, len)]
  else
    let part (x i n : Nat) : Nat × Nat × Nat × Nat :=
      let b := x / 256 % 2 ^ 49
      (stripePeer w.count b, b / w.count * 256 + x % 256, i, n)
    if len = 0 then [part off 0 0]
    else (List.range ((off + len - 1) / 256 + 1 - off / 256)).map fun j =>
      let lo := max off ((off / 256 + j) * 256)
      let hi := min (off + len) ((off / 256 + j + 1) * 256)
      part lo (lo - off) (hi - lo)

/-- The bay of the domain that holds a member rank of a window of a kernel (R177). -/
def State.memberBay (s : State) (w : Window) (rank : Nat) : Option Nat :=
  match s.kernel? w.kernel with
  | some k => if rank < w.count then k.ords[w.first + rank * w.stride]? else none
  | none => none

/-! ## The loop nest of a collective (R196, R197) -/

/-- A field of a loop-nest record, level l, positions as for level 0. -/
def nestField (d l hi lo : Nat) : Nat := field (128 * l + hi) (128 * l + lo) d

/-- The counters i0 to i5 of an iteration by its number, i5 the fastest. -/
def nestIndex (d n : Nat) (l : Nat) : Nat :=
  let inner := ((List.range 6).filter fun m => decide (l < m)).foldl (fun p m => p * max (nestField d m 15 0) 1) 1
  n / inner % max (nestField d l 15 0) 1

/-- The transfer of an iteration: peer, source and destination displacement, or none where peer ≥ P (R197). -/
def nestTransfer (d rank n : Nat) : Option (Nat × Int × Int) :=
  let p := field 844 832 d
  let peer := (List.range 6).foldl (fun (peer : Nat) l =>
    let x := nestField d l 94 82 * nestIndex d n l + nestField d l 107 95
    match nestField d l 81 80 with
    | 1 => (peer + x) % p
    | 2 => peer ^^^ (x % 8192)
    | _ => peer) rank
  let sum (hi lo : Nat) : Int := ((List.range 6).map fun l => (nestIndex d n l : Int) * signedOf 32 (nestField d l hi lo)).sum
  if peer < p then some (peer, (field 943 896 d : Int) + sum 47 16, (field 991 944 d : Int) + sum 79 48) else none

/-- The transfers of a loop nest that there are, in the order of its iterations. -/
def nestTransfers (d rank : Nat) : List (Nat × Int × Int) := (List.range (nestSize d)).filterMap (nestTransfer d rank)

/-! ## Targets, routes and what an operation must follow -/

/-- The member ranks that an operation's accesses go to: TGT, or the ranks of its stripes (R253). -/
def State.targetsOf (s : State) (opc d : Nat) : List Nat :=
  if !isAccess opc then []
  else match s.windows.find? fun w => w.key == ⟨bayOf s.core.ref, s.myCtx, field 7 0 d⟩ with
    | some w => ((accessParts w (field 20 8 d) (field 127 64 d * 2 ^ w.unit) (field 151 128 d)).map (·.1)).dedup
    | none => [field 20 8 d]

/-- The routes that the accesses of a window operation, or the transfers of a collective, may take: the bay of the domain and the colour
(R241). -/
def State.routesOf (s : State) (opc d : Nat) : List (Nat × Nat) :=
  match (winOf opc d).bind fun n => s.windows.find? fun w => w.key == ⟨bayOf s.core.ref, s.myCtx, n⟩ with
  | none => []
  | some w =>
    let ranks := if opc = 0x80 then List.range (field 844 832 d) else s.targetsOf opc d
    (ranks.map fun r => ((s.memberBay w r).getD 0, colourOf opc d)).dedup

/-- The stores and gets of earlier bundles that an operation must follow: a fence its colours, SCFENCE every store and get, CNTINC and
BARARR every store, an RCE increment its own colour (R169, R186, R269). -/
def Core.covers (c : Core) (opc : Nat) (f : CForm) (d : Nat) : List Nat :=
  let mask := f.sx.toNat % 4 * 64 + f.sy.toNat
  let store (o : COp) : Bool := isStore o.opc o.desc.toNat && !o.drained
  let pick (sel : COp → Bool) : List Nat := (c.ops.filter fun o => decide (o.id < c.first) && sel o).map (·.id)
  match opc with
  | 0x78 => pick fun o => store o && bitOf (colourOf o.opc o.desc.toNat) mask
  | 0x79 => pick fun o => store o || isGet o.opc o.desc.toNat
  | 0x63 => pick store
  | 0x71 => pick store
  | 0x43 => if bitOf 50 d then pick fun o => store o && colourOf o.opc o.desc.toNat == colourOf opc d else []
  | 0x44 => if bitOf 50 d then pick fun o => store o && colourOf o.opc o.desc.toNat == colourOf opc d else []
  | _ => []

/-- An operation as it issues: its registers, descriptor, tag and STEP are read, its banks reserved, its token cleared, its handle
pending, and it enters its engine's queue. -/
def cIssue (opc : Nat) (f : CForm) (s : State) : State :=
  let d := s.core.descOf opc f
  let n := d.toNat
  let (step, s) := if readsStep opc n then s.stepSeen else (0, s)
  let c := s.core
  let d2 := c.desc2Of opc d
  let hnd := handleOf opc n d2.toNat
  let id := c.nextOp
  let tag := match winOf opc n with | some w => s.tagOf w | none => (0, false)
  let area := c.ra f.ap.toNat
  let o : COp := {
    id := id, opc := opc, f := f, x := c.rs f.sx.toNat, y := c.rs f.sy.toNat, href := c.rh (f.sx.toNat % 16), area := area,
    desc := d, desc2 := d2, step := step, fi := tag.1, opened := tag.2, waits := c.waitsOf f.tO [f.t1, f.t2, f.t3],
    stage := .queued, accAt := 0, promise := none, status := 0, outward := isOutward opc n, released := false, drained := false,
    hnd := hnd, staged := [], addr := s.objectOf opc (c.rs f.sx.toNat) area, phys := [], banks := [], covers := c.covers opc f n, err := none, logged := false, parts := 0,
    replies := [], faulted := [], refused := [], accs := [], targets := s.targetsOf opc n,
    routes := if isEpoch opc then [] else s.routesOf opc n }
  let o := { o with banks := c.reserve area (poolRuns opc (aOff area) o.len n) }
  s.mapCore fun c =>
    let c := c.nameToken s.now f.tO.toNat id
    let c := match hnd with
      | some h => if opc = 0x65 then c else c.nameHandle s.now h id
      | none => c
    { c with ops := c.ops ++ [o], nextOp := id + 1 }

/-- A C-slot operation: ILLEGAL-FORMAT, or its engine's queue. -/
def cExec (opc : Nat) (f : CForm) (s : State) : Result := .next (s.orTrap (cTrap opc f s) (cIssue opc f))

/-! ## Memory runs and their checks (R153, R154) -/

/-- The object that an HGET, HPUT or HACC resolves to, and the region, or none where R168 or R321 refuses it. -/
def State.yardObject (s : State) (ref : Nat) (r : W64) : Option (Nat × RegKey) :=
  if r = 0 ∨ field 63 57 r.toNat ≠ 0 then none
  else match s.kernel? (s.coreAt ref).kernel with
    | none => none
    | some k => match s.regionAt k.ctx (refAddr r) with
      | none => none
      | some g => if g.home = bayOf ref then some (g.objectOf r, g.key) else none

/-- Whether two ranges have a byte in common. -/
def rangesMeet (a n b m : Nat) : Bool := decide (0 < n) && decide (0 < m) && decide (a < b + m) && decide (b < a + n)

/-- The page that covers a virtual address: its first 64 KiB and its size code, as a TLB entry holds it (R374). -/
def Context.pageOf (x : Context) (va : Nat) : Option (Nat × Nat) :=
  (x.leaves.find? fun l => decide (l.page * 2 ^ 16 ≤ va) && decide (va < l.page * 2 ^ 16 + pageBytes (leafSz l.word))).map fun l =>
    (l.page, leafSz l.word)

/-- Whether a TLB entry meets a range. -/
def tlbHit (va len : Nat) (e : Nat × Nat) : Bool := rangesMeet (e.1 * 2 ^ 16) (pageBytes e.2) va len

/-- An engine's TLB after it has used some pages in order: the most recent first, 64 at most (R374). -/
def Engine.use (e : Engine) (ps : List (Nat × Nat)) : Engine :=
  { e with tlb := (ps.reverse ++ e.tlb.filter fun t => !ps.contains t).take 64 }

/-- A bay's die TLB after the use of some pages of a context in order, which missed in an engine's own: the most recent first, 4,096 at
most (R374). -/
def State.useDie (s : State) (bay ctx : Nat) (ps : List (Nat × Nat)) : State :=
  let es := (ps.map fun p => (bay, ctx, p.1, p.2)).reverse
  let mine := s.dieTlb.filter fun e => e.1 == bay && !es.contains e
  { s with dieTlb := (es ++ mine).take 4096 ++ s.dieTlb.filter fun e => e.1 != bay }

/-- What the translation of a page costs that an engine's own TLB does not hold: 12 cc in the die TLB, else a walk of 40 cc for each
level read (R374). -/
def State.pageCost (s : State) (bay : Nat) (x : Context) (page : Nat × Nat) : Nat :=
  if s.dieTlb.contains (bay, x.id, page.1, page.2) then 12 else 40 * (x.descent bay (page.1 * 2 ^ 16)).2

/-- A run of addresses taken mod 2^57: one that passes the top goes on at 0 (R156). -/
def wrapRun (start len : Nat) : List (Nat × Nat) :=
  let a := start % 2 ^ 57
  if a + len ≤ 2 ^ 57 then [(a, len)] else [(a, 2 ^ 57 - a), (0, a + len - 2 ^ 57)]

/-- The virtual runs an operation reads and those it writes, as (start, length), in the order of its bytes. -/
def COp.runs (o : COp) : List (Nat × Nat) × List (Nat × Nat) :=
  let d := o.desc.toNat
  let va := o.x.toNat
  match o.opc with
  | 0x01 => ([(va, o.len)], [])
  | 0x02 => ([], [(va, o.len)])
  | 0x03 =>
    let rs := (List.range (field 15 0 d)).flatMap fun (r : Nat) =>
      wrapRun (((va : Int) + (r : Int) * signedOf 64 (field 127 64 d)).emod (2 ^ 57)).toNat (field 39 16 d)
    if bitOf 131 d then ([], rs) else (rs, [])
  | 0x04 =>
    let (vr, vc) := tileValid d
    let n := ceilDiv (vc * eszBits (field 63 62 d)) 8
    let nv := if bitOf 78 d then vc else vr
    (((List.range vr).map fun i => (va + i * field 47 0 d, n)) ++
      (if bitOf 79 d then [(field 191 128 d, 2 * nv)] else []), [])
  | 0x05 =>
    let w := eszBits (field 63 62 d)
    let rows := field 54 48 d
    let cols := field 61 55 d
    ([], ((List.range rows).map fun i => (va + i * field 47 0 d, ceilDiv (cols * w) 8)) ++
      (List.range cols).map fun k => (field 255 192 d + k * field 175 128 d, ceilDiv (rows * w) 8))
  | 0x20 =>
    let n := field 63 32 d * (if field 7 0 d = 6 then 128 else if bitOf 11 d then 2 else 4)
    let dst := (field 127 64 d, n)
    let src := (field 191 128 d, n)
    ((if 3 ≤ field 7 0 d then [src] else []) ++ (if field 7 0 d = 1 ∨ field 7 0 d = 5 then [] else [dst]), [dst])
  | 0x21 => ([(va, o.len)], [])
  | 0x22 => ([], [(va, o.len)])
  | 0x23 => ([(va, o.len)], [(va, o.len)])
  | 0x30 => ([(o.addr + 16 + field 31 0 o.y.toNat, o.len)], [])
  | 0x31 => ([], [(o.addr + 16 + field 31 0 o.y.toNat, o.len)])
  | 0x32 => ([(o.addr + 16 + field 31 0 o.y.toNat, o.len)], [(o.addr + 16 + field 31 0 o.y.toNat, o.len)])
  | _ => ([], [])

/-- A length held in s[SY] above 2^24 (R153): refused once every page is translated. [DEDUCED: log 102] -/
def COp.tooLong (o : COp) : Bool :=
  [0x01, 0x02, 0x07, 0x21, 0x22, 0x23, 0x30, 0x31, 0x32].contains o.opc && decide (2 ^ 24 < o.len)

/-- The checks that come before any translation, made for an empty operation too (R154, R163, R165, R168): true where the operation
is refused with status 2. -/
def State.plainRefusal (s : State) (ref : Nat) (o : COp) : Bool :=
  let d := o.desc.toNat
  match o.opc with
  | 0x20 =>
    let a := if field 7 0 d = 6 then 128 else if bitOf 11 d then 2 else 4
    field 127 64 d % a != 0 || (3 ≤ field 7 0 d && field 191 128 d % a != 0)
  | 0x21 => o.x.toNat % 128 != 0 || o.len % 128 != 0
  | 0x22 => o.x.toNat % 128 != 0 || o.len % 128 != 0
  | 0x23 => o.x.toNat % 128 != 0 || o.len % 128 != 0
  | 0x30 => (s.yardObject ref o.href).isNone || bitOf 63 o.y.toNat
  | 0x31 => (s.yardObject ref o.href).isNone || bitOf 63 o.y.toNat
  | 0x32 => (s.yardObject ref o.href).isNone || o.len % 4 != 0 || field 31 0 o.y.toNat % 4 != 0
  | _ => false

/-- What the walk of one page finds: a leaf, no valid leaf, or a malformed entry (R378). -/
inductive Walk where
  | leaf (w : W64)
  | missing
  | malformed
  deriving DecidableEq, Repr

/-- The walk of the page that holds an address. -/
def Context.walk (x : Context) (va : Nat) : Walk :=
  match x.leaf? va with
  | none => .missing
  | some w => if !bitOf 63 w.toNat then .missing else if leafOk w then .leaf w else .malformed

/-- Why a 256-byte block cannot be accessed under a leaf, as a status; 0 where it can (R153). -/
def blockStatus (x : Context) (node bay : Nat) (w : W64) (va : Nat) (write : Bool) : Nat :=
  match x.homeOf node w va with
  | none => 2
  | some (nd, b, _) =>
    if nd ≠ node ∨ b ≠ bay then 2
    else if write then (if !leafWr w then 2 else if leafSeal w then 3 else 0)
    else if leafRd w then 0 else 2

/-- The 256-byte blocks of a run. -/
def runBlocks (r : Nat × Nat) : List Nat :=
  if r.2 = 0 then [] else (List.range ((r.1 + r.2 - 1) / 256 + 1 - r.1 / 256)).map (· + r.1 / 256)

/-- The 256-byte blocks of runs. -/
def blocksOf : List (Nat × Nat) → List Nat
  | [] => []
  | [r] => runBlocks r
  | runs => (runs.map runBlocks).flatten.dedup

/-- Whether runs touch a 256-byte block. -/
def touchesBlock (runs : List (Nat × Nat)) (b : Nat) : Bool :=
  runs.any fun r => r.2 != 0 && decide (r.1 / 256 ≤ b) && decide (b ≤ (r.1 + r.2 - 1) / 256)

/-- What acceptance finds of an operation's memory: pages still to be waited for, a refusal with the block of its first failing byte,
or the translations. -/
inductive Found where
  | wait (pages : List (Nat × Nat))
  | refuse (status va : Nat)
  | ok (phys : List (Nat × Nat))
  deriving DecidableEq, Repr

/-- The translation of every block of an operation (R153): every page first, then every check. [DEDUCED: log 112] -/
def Context.translate (x : Context) (node bay : Nat) (refused : List Nat) (rd wr : List (Nat × Nat)) : Found :=
  let all := blocksOf rd ++ (blocksOf wr).filter fun b => !touchesBlock rd b
  let high := all.filter fun b => decide (2 ^ 49 ≤ b)
  let inside := all.filter fun b => decide (b < 2 ^ 49)
  let away := inside.filterMap fun b =>
    if refused.contains (b / 256) then none
    else match x.walk (b * 256) with
      | .leaf w => if leafMig w then some (b / 256, 3) else none
      | .missing => some (b / 256, if touchesBlock wr b then 1 else 0)
      | .malformed => some (b / 256, 2)
  let bad := inside.map fun b => match x.walk (b * 256) with
    | .leaf w =>
      let a := if touchesBlock rd b then blockStatus x node bay w (b * 256) false else 0
      let c := if touchesBlock wr b then blockStatus x node bay w (b * 256) true else 0
      (b, if refused.contains (b / 256) then 2 else if a = 2 ∨ c = 2 then 2 else max a c)
    | _ => (b, 2)
  let failing := (bad.filter fun p => p.2 != 0) ++ high.map fun b => (b, 2)
  if !away.isEmpty then .wait away.dedup
  else match failing with
    | [] => .ok (inside.filterMap fun b => match x.walk (b * 256) with
      | .leaf w => (x.homeOf node w (b * 256)).map fun h => (b, memAddr h.2.1 h.2.2)
      | _ => none)
    | p :: rest => if failing.any fun q => q.2 == 2 then .refuse 2 p.1 else .refuse 3 (rest.foldl (fun m q => min m q.1) p.1)

/-- The module-memory address of a virtual byte under an operation's translations. -/
def COp.mem (o : COp) (va : Nat) : Nat := Sparse.get 0 o.phys (va / 256) + va % 256

/-- The virtual addresses of runs, byte by byte. -/
def bytesOfRuns (runs : List (Nat × Nat)) : List Nat := (runs.map fun r => (List.range r.2).map fun i => (r.1 + i) % 2 ^ 57).flatten

end Sys2Proof.Machine
end

