-- ==== Sys2Proof/Machine/Fabric.lean ====
section
/-! DEFINITION. The fabric from the origin's side (R241, R247, R249, R253): windows and their members, accesses built and sent along
their routes, messages to members, and the completion of an operation on its token and handle. -/

namespace Sys2Proof.Machine

/-! ## Windows and members -/

/-- A window at one bay of this module. -/
def State.window? (s : State) (k : WinKey) : Option Window := s.windows.find? fun w => w.key == k

/-- The state with a window entry changed. -/
def State.onWindow (s : State) (k : WinKey) (f : Window → Window) : State :=
  { s with windows := s.windows.map fun w => if w.key = k then f w else w }

/-- The entry of the core in focus for a window id of its context. -/
def State.ownWindow (s : State) (win : Nat) : Option Window := s.window? ⟨bayOf s.core.ref, s.myCtx, win⟩

/-- The saved core of a reference that a pre-empted kernel had (R354). -/
def Kernel.savedCore? (k : Kernel) (ref : Nat) : Option Core := (k.saved.find? fun r => r.core.ref == ref).map (·.core)

/-- That core changed. -/
def Kernel.onSaved (k : Kernel) (ref : Nat) (f : Core → Core) : Kernel :=
  { k with saved := k.saved.map fun r => if r.core.ref = ref then { r with core := f r.core } else r }

/-- The core that a window's agent is now: one that is saved where its kernel is pre-empted. -/
def State.agentCore (s : State) (w : Window) : Core :=
  match s.kernel? w.kernel with
  | some k => if k.phase == .preempted then (k.savedCore? w.agent).getD (Core.blank w.agent) else s.coreAt w.agent
  | none => s.coreAt w.agent

/-- That core changed. -/
def State.onAgent (s : State) (w : Window) (f : Core → Core) : State :=
  match s.kernel? w.kernel with
  | some k =>
    if k.phase == .preempted then s.onKernel k.seq fun k => k.onSaved w.agent f
    else s.onCore w.agent f
  | none => s.onCore w.agent f

/-- The ranks of a group. -/
def Group.ranks (g : Group) : List Nat := (List.range g.count).map fun i => g.first + i * g.stride

/-- A fenced unit, or one of a fenced bay (R387). -/
def State.fencedUnit (s : State) (u : UnitId) : Bool :=
  s.sys.fenced.contains u || s.sys.fenced.contains (match u with
    | .core b _ => .bay b | .engine b _ _ => .bay b | .port b _ => .bay b | .channel b _ => .bay b | .link n => .link n | .bay b => .bay b)

/-- Whether traffic of a colour from a bay of this module to a bay of the domain would have to cross a fenced port or link (R387): it
leaves and enters by the ports of its colour, and takes the link of its target module. [DESIGN CHOICE: log 69] -/
def State.cut (s : State) (here gbay clr : Nat) : Bool :=
  let away : Bool := gbay / 8 != s.node.toNat
  (away || gbay % 8 != here) &&
    (s.fencedUnit (.port here (clr % 4)) ||
      if away then s.fencedUnit (.link (gbay / 8 % 18)) else s.fencedUnit (.port (gbay % 8) (clr % 4)))

/-- A message that goes from a bay to a bay of the domain: along the module's own fabric, or out of the module with the bay's domain
number. It has no colour and takes the ports of colour 0; where one of those is fenced it goes nowhere (R387). [DESIGN CHOICE: log 69] -/
def State.toBay (s : State) (here gbay : Nat) (mk : Nat → Instr) : State :=
  if s.cut here gbay 0 then s
  else if gbay / 8 = s.node.toNat then s.send none (mk (gbay % 8)) else s.emit (mk gbay)

/-- A message of an operation of a core: where it would have to cross a fenced port or link, the operation completes with 0x06 (R387). -/
def State.toBayOf (s : State) (core op gbay : Nat) (mk : Nat → Instr) : State :=
  if s.cut (bayOf core) gbay 0 then s.send none (.remoteCompletion ⟨core, op, 6, [], 0⟩) else s.toBay (bayOf core) gbay mk

/-- A message to every member of a window. -/
def State.toMembers (s : State) (w : Window) (ranks : List Nat) (mk : Nat → WinKey → Instr) : State :=
  ranks.foldl (fun s r => match s.memberBay w r with
    | some g => s.toBay w.key.bay g fun b => mk r { w.key with bay := b }
    | none => s) s

/-- Whether a message to some members would have to cross a fenced port or link. -/
def State.cutFrom (s : State) (w : Window) (ranks : List Nat) : Bool :=
  ranks.any fun r => (s.memberBay w r).any fun g => s.cut w.key.bay g 0

/-! ## Completion at the origin -/

/-- Operations that are over are dropped from the core's list: locally complete, and not outward or drained. -/
def Core.prune (c : Core) : Core :=
  { c with ops := c.ops.filter fun o => !(o.stage == .localDone) || (o.outward && !o.drained) }

/-- One operation of the core changed. -/
def Core.onOp (c : Core) (id : Nat) (f : COp → COp) : Core :=
  { c with ops := c.ops.map fun (o : COp) => if o.id = id then f o else o }

/-- An operation of the core. -/
def Core.op? (c : Core) (id : Nat) : Option COp := c.ops.find? fun o => o.id == id

/-- The banks an operation gives back: they are held to the end of this cc (R207, R208). -/
def Core.giveBack (c : Core) (banks : List Nat) : Core :=
  if banks.isEmpty then c else { c with freed := (c.freed.filter fun f => f.1 == c.clk) ++ [(c.clk, banks)] }

/-- Local completion: the token is done with a status and its handle is local, unless it is complete already (R90, R91, R150). -/
def Core.finishLocal (c : Core) (id status va : Nat) : Core :=
  let banks := match c.op? id with | some o => if o.stage == .localDone then [] else o.banks | none => []
  (((c.giveBack banks).onOp id fun o => { o with stage := .localDone, status := status }).tokenDone id status va).onHandle id fun h =>
    if h.st == .pending then { h with st := .localDone } else h

/-- Remote completion of a handle (R91). -/
def Core.finishRemote (c : Core) (id status : Nat) : Core := c.onHandle id fun h => { h with st := .complete, status := status }

/-- Everything of an operation is over: its stores are visible (R262). -/
def Core.finishDrain (c : Core) (id : Nat) : Core :=
  { (c.onOp id fun o => { o with drained := true, staged := [] }).prune with log := dropStaged id c.log }

/-- A refusal: the token ends with the status, the handle completes with 0x06, and nothing moves (R153, R174). [DEDUCED: log 47] -/
def Core.refuse (c : Core) (id status va : Nat) : Core := (((c.finishLocal id status va).finishRemote id 6).finishDrain id)

/-- Whether everything an operation covers is over: its stores drained, its gets complete (R169). -/
def Core.coversOver (c : Core) (o : COp) : Bool :=
  !c.ops.any fun p => o.covers.contains p.id && !(if p.outward then p.drained else p.stage == .localDone)

/-- The token status a completion status gives (R181). -/
def tokenStatus (st : Nat) : Nat := match st with | 0 => 0 | 5 => 1 | 7 => 3 | _ => 2

/-- An error found at memory after the release: noted on every fence that covers the store, one of which has to report it, or counted
(R170, R391). -/
def Core.memoryError (c : Core) (id va : Nat) : Core :=
  let fences := c.ops.filter fun p => (p.opc == 0x78 || p.opc == 0x79) && p.stage != .localDone && p.covers.contains id
  if fences.isEmpty then { c with uncov := c.uncov + 1 }
  else { c with noted := c.noted ++ [fences.map (·.id)], ops := c.ops.map fun p =>
    if fences.any fun q => q.id == p.id then { p with err := some (match p.err with | some e => min e va | none => va) } else p }

/-! ## Accesses -/

/-- Whether an access would have to cross a fenced port or link (R387). -/
def State.barred (s : State) (a : Access) : Bool := s.cut (bayOf a.org.core) (a.node * 8 + a.key.bay) a.clr

/-- What marks the 0x06 of a collective's transfer that a fence turned back, so that its handle completes with it (R387). -/
def fencedMark : Nat := 0x200

/-- The time of arrival of an access: after a free time, and not before an earlier one of its route (R241). One that cannot get through
a fenced port or link completes with 0x06 (R387). -/
def State.sendAccess (s : State) (a : Access) : State :=
  if s.barred a then
    s.send none (.remoteCompletion ⟨a.org.core, a.org.op, if a.coll.isSome then fencedMark + 6 else 6, [], a.part⟩)
  else if a.node ≠ s.node.toNat then s.emit (.remoteAccessArrival a)
  else
    let (d, s) := s.free Config.transit
    let last := s.agenda.foldl (fun m e => match e.ev with
      | .remoteAccessArrival b =>
        if b.org.core = a.org.core ∧ b.org.node = a.org.node ∧ b.clr = a.clr ∧ b.key.bay = a.key.bay then max m e.at_ else m
      | _ => m) (s.now + d)
    { s with agenda := insertDue s.agenda ⟨last, none, .remoteAccessArrival a⟩ }

/-- The accesses of a window operation of the core in focus, by its descriptor; `data` are its source bytes. [DEDUCED: log 108] -/
def State.accessesOf (s : State) (id opc d : Nat) (step : W64) (fi : Nat) (opened : Bool) (data : List Byte) : List Access :=
  match s.mine, s.ownWindow (field 7 0 d) with
  | some k, some w =>
    let parts := accessParts w (field 20 8 d) (field 127 64 d * 2 ^ w.unit) (field 151 128 d)
    parts.map fun p =>
      let g := (s.memberBay w p.1).getD 0
      { key := { w.key with bay := g % 8 }, node := g / 8,
        org := ⟨s.node.toNat, (k.ordOf (s.globalBay (bayOf s.core.ref))).getD 0, w.rank, s.core.ref, id⟩,
        opc := opc, fi := fi, opened := opened, off := p.2.1, len := p.2.2.2, aop := field 38 35 d, dty := field 34 32 d,
        rce := bitOf 50 d && parts.length == 1 && (opc == 0x43 || opc == 0x44), rcnt := field 49 40 d, clr := field 26 24 d,
        cmpv := BitVec.ofNat 64 (field 255 192 d), step := step, data := (data.drop p.2.2.1).take p.2.2.2, tagOk := true,
        agent := w.agent == s.core.ref, after := [], part := p.2.2.1, coll := none }
  | _, _ => []

/-- How many accesses of an interval the agent has sent to a rank (R247). -/
def Window.sentIn (w : Window) (rank fi : Nat) : Nat := ((w.sentTo.find? fun e => e.1 == rank && e.2.1 == fi).map (·.2.2)).getD 0

/-- Accesses sent, and the agent's counted toward the interval they are tagged with (R247). [DEDUCED: log 52] -/
def State.sendAll (s : State) (as : List Access) : State :=
  as.foldl (fun s a =>
    let s := if !a.agent then s else s.onWindow { a.key with bay := bayOf s.core.ref } fun w =>
      let rank := (List.range w.count).find? (fun r => s.memberBay w r == some (a.node * 8 + a.key.bay))
      match rank with
      | some r => { w with sentTo := (w.sentTo.filter fun e => !(e.1 == r && e.2.1 == a.fi)) ++ [(r, a.fi, w.sentIn r a.fi + 1)] }
      | none => w
    s.sendAccess a) s

/-- The group of an epoch descriptor (R184). -/
def epochGroup (d : Nat) : Group := ⟨field 76 64 d, field 92 80 d, field 108 96 d⟩

/-- The earlier WSTARTs of the core, not posted yet, whose group holds a target of an access: their posts are not taken (R249).
[DEDUCED: log 90] -/
def Core.startsBefore (c : Core) (o : COp) : List COp :=
  if isAccess o.opc then (earlierOps o.id c.ops).filter fun p => p.opc == 0x47 && p.stage != .localDone &&
    field 7 0 p.desc.toNat == field 7 0 o.desc.toNat && (epochGroup p.desc.toNat).ranks.any o.targets.contains
  else []

/-- Whether an access of the core in focus waits for a post that WSTART has not taken yet (R249). -/
def State.awaitsPost (s : State) (o : COp) : Bool :=
  let targets := s.targetsOf o.opc o.desc.toNat
  !(s.core.startsBefore { o with targets := targets }).isEmpty || isAccess o.opc && match s.ownWindow (field 7 0 o.desc.toNat) with
    | some w => match w.started with
      | some g => targets.any fun r => g.ranks.contains r && !w.taken.contains r
      | none => false
    | none => false

/-- Whether accesses or transfers of an operation have yet to leave on its routes: it is released, and some have not been sent. A
collective's walker has sent all of them once its token is done (R175, R182, R241). -/
def COp.onRoute (o : COp) : Bool :=
  (o.released || !o.outward) && !o.drained &&
    (isAccess o.opc && (o.parts == 0 || !o.accs.isEmpty) || o.opc == 0x80 && o.stage != .localDone)

/-- The earlier operations whose accesses or transfers have yet to leave on a route that an operation takes: one core's accesses of one
colour to one bay are delivered in issue order (R182, R241). [DEDUCED: log 101] -/
def Core.routeBefore (c : Core) (o : COp) : List COp :=
  (earlierOps o.id c.ops).filter fun p => p.onRoute && p.routes.any fun r => o.routes.contains r

/-- Whether there are such operations. -/
def Core.routeBusy (c : Core) (o : COp) : Bool := !(c.routeBefore o).isEmpty

/-- Whether an operation of the remote chapter has left the core: an epoch operation and a change of the trigger table is posted, an
access sent (R176). -/
def COp.left (o : COp) : Bool :=
  if isEpoch o.opc || o.opc == 0x65 || o.opc == 0x66 then o.stage == .localDone
  else if isAccess o.opc then (o.parts != 0 && o.accs.isEmpty) || o.drained
  else true

/-- Whether an earlier effect, released and accepted, has not left yet: effects leave in issue order (R176). [DEDUCED: log 129] -/
def Core.leavesAfter (c : Core) (o : COp) : Bool :=
  (earlierOps o.id c.ops).any fun p => p.outward && p.released && p.stage != .queued && decide (0x40 ≤ p.opc) && !p.left

/-! ## The bytes that a store writes in its own bay (R171, R265) -/

/-- Bytes of a run by 256-byte block, each at its place in module memory: (0, address, length). -/
def blockSpans (f : Nat → Option Nat) (r : Nat × Nat) : List (Nat × Nat × Nat) :=
  (runBlocks r).filterMap fun b =>
    let lo := max r.1 (256 * b)
    (f b).map fun m => (0, m + (lo - 256 * b), min (r.1 + r.2) (256 * (b + 1)) - lo)

/-- Bytes of a core's scratchpad by R22: (reference + 1, place in the pool, length). -/
def State.poolSpans (s : State) (ref off len : Nat) : List (Nat × Nat × Nat) :=
  let w := (s.coreAt ref).partword
  let e := pow2Above (partScratch w * bankBytes)
  let b := partBase w * bankBytes
  let a := off % e
  if a + len ≤ e then [(ref + 1, b + a, len)] else [(ref + 1, b + a, e - a), (ref + 1, b, a + len - e)]

/-- Bytes of a member's range. -/
def State.windowSpans (s : State) (w : Window) (off len : Nat) : List (Nat × Nat × Nat) :=
  if w.pool then s.poolSpans w.agent (w.base + off) len
  else match s.ctx? w.key.ctx with
    | none => []
    | some x => blockSpans (fun b => match x.walk (b * 256) with
        | .leaf l => (x.homeOf s.node.toNat l (b * 256)).map fun h => memAddr h.2.1 h.2.2
        | _ => none) (w.base + off, len)

/-- The bytes that a store of the core in focus writes in its own bay. -/
def State.writeSpans (s : State) (o : COp) : List (Nat × Nat × Nat) :=
  let d := o.desc.toNat
  if o.opc = 0x06 then s.poolSpans o.addr (field 23 0 d) o.len
  else if o.opc = 0x73 ∨ o.opc = 0x74 then s.poolSpans o.addr (field 23 0 d) (dtyBytes (field 42 40 d))
  else if o.opc = 0x70 ∨ o.opc = 0x71 then match s.mine.bind fun k => k.cores.find? fun r => bayOf r == bayOf s.core.ref with
    | some h => [(h + 1, o.addr - 1, 16)]
    | none => []
  else if isAccess o.opc then match s.ownWindow (field 7 0 d) with
    | some w => (accessParts w (field 20 8 d) (field 127 64 d * 2 ^ w.unit) (field 151 128 d)).flatMap fun p =>
        if s.memberBay w p.1 == some (s.globalBay (bayOf s.core.ref)) then s.windowSpans w p.2.1 p.2.2.2 else []
    | none => []
  else if o.opc = 0x80 then match s.ownWindow (field 775 768 d) with
    | some w =>
      let own := some (s.globalBay (bayOf s.core.ref))
      (nestTransfers d w.rank).flatMap fun t =>
        if field 787 784 d = 1 || s.memberBay w t.1 == own then s.windowSpans w t.2.2.toNat (field 887 864 d) else []
    | none => []
  else if o.opc < 0x40 then o.runs.2.flatMap (blockSpans fun b => (o.phys.find? fun e => e.1 == b).map (·.2))
  else []

/-- Whether an operation is a near-memory one, which reads and writes at its destination's memory in command order (R163, R266). -/
def isNearMemory (opc : Nat) : Bool := opc == 0x20 || opc == 0x23 || opc == 0x32

/-- The bytes that a near-memory operation reads. -/
def COp.readSpans (o : COp) : List (Nat × Nat × Nat) :=
  if isNearMemory o.opc then o.runs.1.flatMap (blockSpans fun b => (o.phys.find? fun e => e.1 == b).map (·.2)) else []

/-- Whether two sets of bytes meet. -/
def spansMeet (a b : List (Nat × Nat × Nat)) : Bool :=
  a.any fun x => b.any fun y => x.1 == y.1 && decide (x.2.1 < y.2.1 + y.2.2) && decide (y.2.1 < x.2.1 + x.2.2)

/-- An earlier released store of the same engine and colour that shares a byte with an operation and is not visible yet: writes of one
engine and colour take effect in issue order at every byte they share (R171, R265), and near-memory commands also read each other's elements in that order
(R266). One whose bytes are not known yet counts; accesses and transfers of collectives follow their routes among themselves.
[DEDUCED: log 130] -/
def State.writesBefore (s : State) (o : COp) : Bool :=
  let mine := s.writeSpans o
  let reads := o.readSpans
  let routed (p : COp) : Bool := isAccess p.opc || p.opc == 0x80
  (earlierOps o.id s.core.ops).any fun p => p.f.unit == o.f.unit && p.outward && p.released && !p.drained &&
    isStore p.opc p.desc.toNat && colourOf p.opc p.desc.toNat == colourOf o.opc o.desc.toNat && !(routed p && routed o) &&
    (p.opc != 0x80 && (p.stage == .queued || p.stage == .held) || spansMeet mine (s.writeSpans p) ||
      isNearMemory o.opc && isNearMemory p.opc && (spansMeet reads (s.writeSpans p) || spansMeet mine p.readSpans))

/-- Earlier released stores of the core to its own bay that are not visible yet: a WPOST is sent after them (R270). [DEDUCED: log 139] -/
def State.storesBefore (s : State) (o : COp) : Bool :=
  (earlierOps o.id s.core.ops).any fun p => p.outward && p.released && !p.drained && isStore p.opc p.desc.toNat &&
    (decide (p.opc < 0x40) || !(s.writeSpans p).isEmpty)

/-- Whether an operation that moves makes one request of the memory or the fabric: a copy, a fill, a near-memory command, a counter
operation or a bay atomic. [DESIGN CHOICE: log 150] -/
def asksOnce (opc : Nat) : Bool := !isAccess opc && !isEpoch opc && !([0x65, 0x66, 0x78, 0x79, 0x80, 0x81].contains opc)

/-- The requests that an operation has outstanding: the faults it waits for, the parts of an access that are not answered, or the one
request of what moves. [DESIGN CHOICE: log 150] -/
def COp.requests (o : COp) : Nat :=
  match o.stage with
  | .queued => 0
  | .held => o.faulted.length
  | .moving => if asksOnce o.opc then 1 else o.asked.length
  | .localDone => o.asked.length

/-- How many more requests an engine may have outstanding: 512 at once (R1, R356). -/
def Core.room (c : Core) (u : CUnit) : Nat :=
  512 - ((c.ops.map fun o => if o.f.unit = u then o.requests else 0).sum +
    (c.walkers.map fun w => if u = .c1 then w.emitted - w.landed + w.pages.length else 0).sum)

/-- Whether an access may set out: earlier ones of its route and earlier effects have left, the post of its target is taken, the stores
it must follow are visible, and its engine has room. -/
def State.mayLeave (s : State) (o : COp) : Bool :=
  !s.core.routeBusy o && !s.core.leavesAfter o && !s.awaitsPost o && (o.opc == 0x42 || !s.writesBefore o) &&
    decide (0 < s.core.room o.f.unit)

/-- The next accesses of an operation, as many as its engine has room for, noted as asked. -/
def Core.ask (c : Core) (o : COp) (n : Nat) : Core :=
  c.onOp o.id fun o => { o with parts := if o.parts = 0 then max (o.replies.length + o.accs.length) 1 else o.parts,
                                asked := o.asked ++ (o.accs.take n).map (·.part), accs := o.accs.drop n }

/-- Accesses of a get or an atomic sent. -/
def State.sendGet (s : State) (o : COp) : State :=
  let n := s.core.room o.f.unit
  (s.mapCore fun c => c.ask o n).sendAll (o.accs.take n)

/-- A put or an accumulate sent: its staged bytes go with its accesses, and with them the stores that an increment it asks for has to
follow (R182, R269). -/
def State.sendPut (s : State) (o : COp) : State :=
  let n := s.core.room o.f.unit
  let as := (o.accs.take n).map fun a =>
    { a with data := (o.staged.drop a.part).take a.len, after := if a.node = s.node.toNat then o.covers else [] }
  (s.mapCore fun c => c.ask o n).sendAll as

/-- Where an operation of a core is now, if its kernel has been resumed on other cores (R24, R357). -/
def State.redirect (s : State) (core op : Nat) : Nat :=
  s.moved.foldl (fun c m => if m.1 = c ∧ op < m.2.1 ∧ ((s.coreAt c).op? op).isNone then m.2.2 else c) core

/-- Whether some earlier stores of a core are not all drained yet; the core may be a saved one, or its kernel resumed on others (R269,
R354, R357). -/
def State.owes (s : State) (core : Nat) (ids : List Nat) : Bool :=
  ids.any fun id =>
    let open_ (c : Core) : Bool := c.ops.any fun o => o.id == id && !o.drained
    open_ (s.coreAt (s.redirect core id)) || s.kernels.any fun k => (k.savedCore? core).any open_

end Sys2Proof.Machine
end

