-- ==== Sys2Proof/Machine/Windows.lean ====
section
/-! DEFINITION. Exposure windows at the target (R242 to R255): the port's checks, the data operations it applies, fence intervals,
exposure, passive locks and leases, and the events that drive them. -/

namespace Sys2Proof.Machine

/-! ## Element operations (R181, R183, R192) -/

/-- op(t, x) on elements by AOP and DTY. -/
def elemCombine (aop dty t x : Nat) : Nat :=
  let float (sh : Shape) : Nat :=
    let a := sh.decodeIeee t
    let b := sh.decodeIeee x
    (sh.round false (match aop with | 0 => a.add b | 1 => a.max2 b | _ => a.min2 b)).1
  let w := 8 * dtyBytes dty
  let less (a b : Nat) : Bool := if dty = 2 then decide (a < b) else decide (signedOf w a < signedOf w b)
  if dty = 0 then float shF32 else if dty = 3 then float shBf16
  else match aop with
    | 0 => (t + x) % 2 ^ w
    | 1 => if less t x then x else t
    | 2 => if less x t then x else t
    | 4 => t &&& x
    | 5 => t ||| x
    | _ => t ^^^ x

/-- The new element of WFAA, WCAS, WSWAP and their bay forms: 0 fetch-and-op, 1 compare-and-swap, 2 swap. -/
def atomicStep (kind aop dty cmpv t x : Nat) : Nat :=
  match kind with
  | 0 => elemCombine aop dty t x
  | 1 => if t = cmpv % 2 ^ (8 * dtyBytes dty) then x else t
  | _ => x

/-! ## The port's checks (R242, R247, R248, R250) -/

/-- What the epoch state of a window says of an access. -/
inductive Epoch where
  | accept
  | hold
  | reject (cause : Nat)
  deriving DecidableEq, Repr

/-- The decision of R247, R248 and R250. -/
def Window.epoch (w : Window) (a : Access) : Epoch :=
  match w.mode with
  | .postStart => match w.exposed with
    | some g => if g.ranks.contains a.org.rank && !w.compl.contains a.org.rank then .accept else .reject 2
    | none => .reject 2
  | .lock => if w.holders.any fun h => h.rank == a.org.rank then .accept else .reject 2
  | _ =>
    if !a.opened then .reject 2
    else if a.fi = w.fi ∧ w.opened then .accept
    else if a.fi = (w.fi + 1) % 256 ∧ w.wfences.any (fun m => m.rank == w.rank && m.fi == a.fi) then .hold
    else if !w.opened ∧ a.fi = w.fi then .reject 2
    else .reject 3

/-- Every check but the translation, in the order of R242. -/
def portCheck (w : Option Window) (a : Access) : Epoch :=
  if !a.tagOk then .reject 8
  else match w with
    | none => .reject 4
    | some w =>
      if !w.live then .reject 4
      else if w.broken.contains a.org.rank then .reject 7
      else match w.epoch a with
        | .accept =>
          let weathered := a.dty == 6
          if (w.wth != weathered || (weathered && a.len ≠ 0 && (a.off % 128 != 0 || a.len % 128 != 0))) && a.len != 0 then
            .reject 5
          else if 0x60 ≤ a.opc ∧ a.opc ≤ 0x62 ∧ (a.off % dtyBytes a.dty ≠ 0 ∨ a.len ≠ dtyBytes a.dty) then .reject 6
          else if a.len ≠ 0 ∧ w.len < a.off + a.len then .reject 1
          else .accept
        | e => e

/-- A rejection recorded in the window status (R244). -/
def WinStatus.record (st : WinStatus) (cause opc off len rank now : Nat) : WinStatus :=
  let off := if cause = 8 then 0 else off
  let len := if cause = 8 then 0 else len
  let st := if st.count = 0 then
      { st with foff := off, flen := len, forig := rank, fcause := cause, fopc := opc, ftime := now % 2 ^ 32 }
    else st
  { st with count := min (st.count + 1) (2 ^ 32 - 1), loff := off, llen := len, lorig := rank, lcause := cause, lopc := opc }

/-- A packet from a module whose tag failed is reported as a fence event of its link (R259). [DESIGN CHOICE: log 158] -/
def State.reportLink (s : State) (node cause : Nat) : State :=
  if cause = 8 then { s with sys := { s.sys with console := s.sys.console ++ [.fenceEvent (.link (node % 18))] } } else s

/-- A rejection recorded: in the window's status, or, for cause 4, in the context's unmatched-access record, whose count saturates (R244,
R245, R364). One of cause 8 that finds no window is recorded with its link only. [DESIGN CHOICE: log 158] -/
def State.recordReject (s : State) (k : WinKey) (cause opc off len : Nat) (org : Origin) : State :=
  if cause = 4 then
    s.onCtx k.ctx fun x =>
      let u := Sparse.get {} x.unmatched k.bay
      { x with unmatched := Sparse.set {} x.unmatched k.bay { count := BitVec.ofNat 64 (min (u.count.toNat + 1) (2 ^ 64 - 1)), node := org.node,
                                                              ord := org.ord, win := k.win } }
  else s.onWindow k fun w => { w with status := w.status.record cause opc off len org.rank s.now }

/-- The completion of an access on its way back (R181). -/
def State.reply (s : State) (a : Access) (status : Nat) (data : List Byte) : State :=
  if a.org.node = s.node.toNat then s.send none (.remoteCompletion ⟨a.org.core, a.org.op, status, data, a.part⟩)
  else s.emit (.remoteCompletion ⟨a.org.node * 1536 + a.org.core, a.org.op, status, data, a.part⟩)

/-- A message of completion to an operation of a core; a core of another module is named by module × 1536 + its reference + 1536. -/
def State.answer (s : State) (core op status : Nat) : State :=
  if core < 1536 then s.send none (.remoteCompletion ⟨core, op, status, [], 0⟩) else s.emit (.remoteCompletion ⟨core - 1536, op, status, [], 0⟩)

/-! ## Leases (R254, R255) -/

/-- A line brought into its home port's cache under a lease of 512 beats, 256 cc; the oldest of 64 makes room. While a forced write-back
bars the line (R255), the access goes to memory without a lease. [DESIGN CHOICE: log 159] -/
def State.lease (s : State) (line : Nat) : State :=
  if s.leases.any (fun l => l.line == line) || s.leaseBar.any (fun b => b.1 == line && decide (s.now < b.2)) then s
  else
    let port := line % 4
    let mine := s.leases.filter fun l => l.port == port && l.line / 2 ^ 29 == line / 2 ^ 29
    let s := if mine.length < 64 then s else match mine with
      | l :: _ => { s with leases := s.leases.filter fun m => m.line != l.line }
      | [] => s
    { s with leases := s.leases ++ [(⟨line, port, (s.now + 256) * 2⟩ : Lease)] }.after 256 none (.leaseExpiry line)

/-- LEASE_EXPIRY: the lease ends; the line's bytes stand in memory. -/
def execLeaseExpiry (line : Nat) (s : State) : Result :=
  .next { s with leases := s.leases.filter fun l => !(l.line == line && decide (l.ends ≤ s.now * 2)) }

/-! ## Applying an access (R181, R183, R246) -/

/-- Where the bytes of an access stand: in the agent core's pool, or at module-memory addresses. -/
inductive Place where
  | pool (ref off : Nat)
  | mem (addrs : List Nat)
  deriving DecidableEq, Repr

/-- Bytes read at a place, with whether a poisoned burst was met. -/
def State.readPlace (s : State) (p : Place) (len : Nat) : List Byte × Bool :=
  match p with
  | .pool ref off => ((s.coreAt ref).poolBytes off len, false)
  | .mem as => (as.map s.readByte, as.any s.poisoned)

/-- Bytes written at a place, with whether a partial write into a poisoned burst was dropped. -/
def State.writePlace (s : State) (p : Place) (bs : List Byte) : State × Bool :=
  match p with
  | .pool ref off => (s.onCore ref fun c => c.poolWriteRemote (cellsAt off bs), false)
  | .mem as => let r := s.memStore (as.zip bs); (r.1, !r.2.isEmpty)

/-- The part of a place from byte i, n bytes long. -/
def Place.slice (p : Place) (i n : Nat) : Place :=
  match p with
  | .pool ref off => .pool ref (off + i)
  | .mem as => .mem ((as.drop i).take n)

/-- The opcodes that write their target. -/
def accessWrites (opc : Nat) : Bool := opc != 0x42

/-- WACC on a place, element by element; an element in a poisoned burst is left (R164, R181). The answer is whether one was met.
[DEDUCED: log 44] -/
def State.accumulate (s : State) (a : Access) (p : Place) : State × Bool :=
  let n := dtyBytes a.dty
  (List.range (a.len / n)).foldl (fun (st : State × Bool) i =>
    let q := p.slice (n * i) n
    let (bs, bad) := st.1.readPlace q n
    if bad then (st.1, true)
    else
      let x := (a.data.drop (n * i)).take n
      if a.dty = 6 then
        match st.1.ctx? a.key.ctx with
        | none => st
        | some cx =>
          let o := cx.accLine a.step bs x
          (((st.1.writePlace q o.line).1).countLines a.key.ctx a.key.bay o.ahead o.bad, st.2)
      else ((st.1.writePlace q (bytesOf n (elemCombine a.aop a.dty (natOf bs) (natOf x)))).1, st.2)) (s, false)

/-- A put on a place; weathered lines are restamped (R167). -/
def State.putAt (s : State) (a : Access) (p : Place) : State × Bool :=
  if a.dty = 6 then
    (List.range (a.len / 128)).foldl (fun (st : State × Bool) i =>
      let o := putLine a.step ((a.data.drop (128 * i)).take 128)
      let r := st.1.writePlace (p.slice (128 * i) 128) o.line
      (r.1.countLines a.key.ctx a.key.bay o.ahead o.bad, st.2 || r.2)) (s, false)
  else s.writePlace p a.data

/-- A run of bytes cut into pieces of n. -/
def chunks (n : Nat) : Nat → List Byte → List (List Byte)
  | 0, _ => []
  | k + 1, bs => bs.take n :: chunks n k (bs.drop n)

/-- The bytes a get delivers: weathered lines are brought to the origin's STEP at the target port, counted in its bay, and raise no
flag (R166, R307, R313). -/
def State.deliver (s : State) (a : Access) (bs : List Byte) : List Byte × State :=
  if a.dty = 6 then match s.ctx? a.key.ctx with
    | none => (bs, s)
    | some x =>
      let ls := (chunks 128 (a.len / 128) bs).map fun l => x.getLine a.step l
      ((ls.map (·.line)).flatten, s.countLines a.key.ctx a.key.bay ((ls.map (·.ahead)).sum) ((ls.map (·.bad)).sum))
  else (bs, s)

/-- The lines of a place (R254). -/
def Place.lines : Place → List Nat
  | .pool _ _ => []
  | .mem as => (as.map (· / 256)).dedup

/-- The increment that RCE asks for, once the data stands (R180, R269). [DEDUCED: log 43] -/
def State.landed (s : State) (a : Access) : State :=
  match s.window? a.key with
  | some w => if a.rce then s.after 0 none (.counterIncrement ⟨w.kernel, a.key.bay, a.rcnt, 1, a.org.core, a.org.op, true, a.after⟩) else s
  | none => s

/-- The data operation of an access that passed every check, on all its bytes: the state, the bytes read and a status. Status 0x100
marks a partial write dropped at a poisoned burst: it is reported on the fences of the origin and not on the handle (R170).
[DEDUCED: log 45] -/
def State.dataStep (s : State) (a : Access) (p : Place) : State × List Byte × Nat :=
  match a.opc with
  | 0x42 =>
    let (bs, bad) := s.readPlace p a.len
    let (bs, s) := s.deliver a bs
    (s, bs, if bad then 5 else 0)
  | 0x43 =>
    let (s, dropped) := s.putAt a p
    (s, [], if dropped then 0x100 else 0)
  | 0x44 =>
    let s := p.lines.foldl State.lease s
    let (s, bad) := s.accumulate a p
    (s, [], if bad then 5 else 0)
  | _ =>
    let s := p.lines.foldl State.lease s
    let (bs, bad) := s.readPlace p a.len
    if bad then (s, [], 5)
    else
      let t := atomicStep (a.opc - 0x60) a.aop a.dty a.cmpv.toNat (natOf bs) (natOf a.data)
      ((s.writePlace p (bytesOf a.len t)).1, bs, 0)

/-- Pieces of n bytes from byte `lo` on. -/
def piecesOf (lo n count : Nat) : List (Nat × Nat) := (List.range count).map fun i => (lo + n * i, n)

/-- The bytes of an accumulate before its first whole element, which a stripe edge has cut off from the part before (R181, R253). -/
def accessLead (a : Access) : Nat :=
  let n := max (dtyBytes a.dty) 1
  min a.len ((n - a.part % n) % n)

/-- The pieces (first byte, bytes) that an access is applied in: the elements of an accumulate, weathered lines, or aligned words of 8
bytes; a poisoned burst of HBM that a put covers whole is one piece (R170, R182, R263). `addrs` are the byte addresses. -/
def State.accessPieces (s : State) (a : Access) (p : Place) : List (Nat × Nat) :=
  let n := max (dtyBytes a.dty) 1
  if a.opc = 0x44 then
    let k := (a.len - accessLead a) / n
    (if accessLead a = 0 then [] else [(0, accessLead a)]) ++ piecesOf (accessLead a) n k ++
      (if a.len = accessLead a + n * k then [] else [(accessLead a + n * k, a.len - accessLead a - n * k)])
  else if a.dty = 6 then piecesOf 0 128 (a.len / 128)
  else
    let addr (i : Nat) : Nat := match p with | .pool _ off => off + i | .mem as => as.getD i 0
    let burst (i : Nat) : Bool := a.opc == 0x43 && (match p with | .pool _ _ => false | .mem as => s.poisoned (as.getD i 0)) &&
      decide (addr i % 64 ≤ i) && decide (i + 64 - addr i % 64 ≤ a.len)
    let starts := (List.range a.len).filter fun i => i == 0 || (if burst i then addr i % 64 == 0 else addr i % 8 == 0)
    starts.mapIdx fun k i => (i, starts.getD (k + 1) a.len - i)

/-- The bytes [i, i + n) of an access as an access. -/
def accessSlice (a : Access) (i n : Nat) : Access := { a with off := a.off + i, len := n, data := (a.data.drop i).take n, part := a.part + i }

/-- One piece of an access applied: the state, the bytes read and a status. An element that a stripe edge cuts is left with free bytes, as
neither of the two ports holds all of it. [DESIGN CHOICE: log 152] -/
def State.pieceStep (s : State) (a : Access) (p : Place) (q : Nat × Nat) : State × List Byte × Nat :=
  let b := accessSlice a q.1 q.2
  let p := p.slice q.1 q.2
  if a.opc = 0x44 ∧ q.2 ≠ max (dtyBytes a.dty) 1 then
    if (s.readPlace p q.2).2 then (s, [], 5)
    else
      let (k, s) := s.free id
      ((s.writePlace p ((List.range q.2).map fun i => Config.splitByte (b.off + i) k)).1, [], 0)
  else s.dataStep b p

/-- The worse of the status met so far and one more: the first that is not 0. -/
def accessWorse (a : Access) (st : Nat) : Nat := if a.bad = 0 then st else a.bad

/-- What a get has read, put at its place. -/
def accessNoted (a : Access) (i : Nat) (bs : List Byte) (st : Nat) : Access :=
  { a with bad := accessWorse a st, data := if a.opc = 0x42 then a.data.take i ++ bs ++ a.data.drop (i + bs.length) else a.data }

/-- Some pieces of an access applied, in order. -/
def State.applyPieces (s : State) (a : Access) (p : Place) (qs : List (Nat × Nat)) : State × Access :=
  qs.foldl (fun (st : State × Access) q =>
    let r := st.1.pieceStep st.2 p q
    (r.1, accessNoted st.2 q.1 r.2.1 r.2.2)) (s, a)

/-- The end of an access: the increment it asks for, and the reply. -/
def State.accessOver (s : State) (a : Access) (bs : List Byte) (st : Nat) : State :=
  (if a.opc = 0x43 ∨ a.opc = 0x44 then s.landed a else s).reply a st bs

/-- Whether an access is applied in one: an atomic, an empty access, and one of a single piece. -/
def accessSingle (a : Access) (pieces : List (Nat × Nat)) : Bool := decide (0x60 ≤ a.opc) || pieces.length ≤ 1

/-! ### Accesses under way -/

/-- The accesses of this module under way at their ports. -/
def State.underWay (s : State) : List Access := s.agenda.filterMap fun e => match e.ev with
  | .remoteAccessArrival b => if b.rest.isSome then some b else none
  | _ => none

/-- Where an access under way stands, as its range is translated now. -/
def State.placeNow (s : State) (a : Access) : Option Place :=
  (s.window? a.key).bind fun w =>
    if w.pool then some (.pool w.agent (w.base + a.off))
    else (s.ctx? w.key.ctx).bind fun x =>
      let lo := w.base + a.off
      match x.translate s.node.toNat w.key.bay [] [] [(lo, a.len)] with
      | .ok ph => some (.mem ((List.range a.len).map fun i => Sparse.get 0 ph ((lo + i) / 256) + (lo + i) % 256))
      | _ => none

/-- The bytes of a piece, as `State.writeSpans` names bytes. -/
def State.pieceSpans (s : State) (p : Place) (q : Nat × Nat) : List (Nat × Nat × Nat) :=
  match p with
  | .pool ref off => s.poolSpans ref (off + q.1) q.2
  | .mem as => ((as.drop q.1).take q.2).map fun a => (0, a, 1)

/-- Some of the pieces that an access under way has left are applied now; the rest of it stays in the agenda as it was. -/
def State.advance (s : State) (b : Access) (p : Place) (sel : Nat × Nat → Bool) : State :=
  let qs := b.rest.getD []
  let now := qs.filter sel
  if now.isEmpty then s
  else
    let r := s.applyPieces b p now
    let c := { r.2 with rest := some (qs.filter fun q => !sel q) }
    { r.1 with agenda := r.1.agenda.map fun e => if e.ev = .remoteAccessArrival b then { e with ev := .remoteAccessArrival c } else e }

/-- Before an agent acts on some bytes in one, the accesses of a kind that stand half applied there go through their pieces in them: a
128-byte line that is written whole is read whole (R263), a whole-block write stands whole or not at all in a block that is read in one
(R293). -/
def State.settleUnit (s : State) (which : Access → Bool) (x : Nat × Nat × Nat) : State :=
  (s.underWay.filter which).foldl (fun s b => match s.placeNow b with
    | none => s
    | some p =>
      let inside (q : Nat × Nat) : Bool := spansMeet (s.pieceSpans p q) [x]
      let all := (s.accessPieces b p).filter inside
      if (b.rest.getD []).filter inside == all then s else s.advance b p inside) s

/-- Lines of 128 bytes about to be written whole at some addresses: the gets that have read part of one read the rest first (R263). -/
def State.beforeLines (s : State) (lines : List (Nat × Nat × Nat)) : State :=
  if s.underWay.isEmpty then s else lines.foldl (fun s x => s.settleUnit (fun b => b.opc == 0x42) x) s

/-- The same before some pieces of a port's write of weathered lines. -/
def State.beforePieces (s : State) (a : Access) (p : Place) (qs : List (Nat × Nat)) : State :=
  if a.dty = 6 ∧ a.opc ≠ 0x42 then
    s.beforeLines (qs.flatMap fun q => match p with
      | .pool _ _ => s.pieceSpans p q
      | .mem as => (List.range (q.2 / 128)).map fun i => (0, as.getD (q.1 + 128 * i) 0, 128))
  else s

/-- A block of 256 bytes about to be read in one: the puts that cover it whole and have written part of it write the rest first (R293). -/
def State.beforeBlock (s : State) (x : Nat × Nat × Nat) : State :=
  s.settleUnit (fun b => b.opc == 0x43 && match s.placeNow b with
    | some p => ((s.accessPieces b p).filter fun q => spansMeet (s.pieceSpans p q) [x]).foldl (fun n q => n + q.2) 0 == 256
    | none => false) x

/-! ### An access at its port -/

/-- An access that is not under way applied whole. -/
def State.applyWhole (s : State) (a : Access) (p : Place) (qs : List (Nat × Nat)) : State :=
  let s := s.beforePieces a p qs
  if a.opc = 0x44 ∧ qs.any fun q => q.2 != max (dtyBytes a.dty) 1 then
    let r := s.applyPieces a p qs
    r.1.accessOver r.2 [] r.2.bad
  else
    let r := s.dataStep a p
    r.1.accessOver a r.2.1 (accessWorse a r.2.2)

/-- The data operation of an access at its place. Only its pieces are atomic (R182, R263): it may be applied whole, or be under way with
its pieces applied in any order and other steps between. At its end comes the increment it asks for, and the reply.
[DESIGN CHOICE: log 134] -/
def State.applyAt (s : State) (a : Access) (p : Place) : State :=
  match a.rest with
  | none =>
    let qs := if 0x60 ≤ a.opc ∨ a.len = 0 then [] else s.accessPieces a p
    if accessSingle a qs then s.applyWhole a p qs
    else
      let t := { s with fresh := s.fresh + 1 }
      if Config.choice s.fresh then
        t.send none (.remoteAccessArrival { a with rest := some qs, data := if a.opc = 0x42 then List.replicate a.len 0 else a.data })
      else t.applyWhole a p qs
  | some qs =>
    let (k, t) := s.free Config.pick
    let t := { t with fresh := t.fresh + 1 }
    let now := if Config.choice (s.fresh + 1) then (qs[k % qs.length]?).toList else qs
    let r := (t.beforePieces a p now).applyPieces a p now
    let b := { r.2 with rest := some (qs.filter fun q => !now.contains q) }
    if now.length = qs.length then r.1.accessOver b (if a.opc = 0x42 then b.data else []) b.bad
    else r.1.send none (.remoteAccessArrival b)

/-- All that is left of an access applied at once. -/
def State.applyRest (s : State) (a : Access) (p : Place) : State :=
  match a.rest with
  | none => s.applyWhole a p (if 0x60 ≤ a.opc ∨ a.len = 0 then [] else s.accessPieces a p)
  | some qs =>
    let r := (s.beforePieces a p qs).applyPieces a p qs
    r.1.accessOver { r.2 with rest := some [] } (if a.opc = 0x42 then r.2.data else []) r.2.bad

/-- A translation fault posted, unless one for the page is outstanding (R378, R379). -/
def State.postFault (s : State) (ctx page engine core bay kind : Nat) : State :=
  match s.ctx? ctx with
  | none => s
  | some x =>
    if x.faults.any fun f => f.page == page && !f.answered then s
    else
      let f : XFault := ⟨x.nextFault, page, engine, core, bay, kind, false⟩
      (s.onCtx ctx fun x => { x with faults := x.faults ++ [f], nextFault := x.nextFault + 1 }).journal
        ⟨0, .translationFault, 0, ctx, 0, f.id, .xfault f⟩

/-- Entries of a context's backlog ring for a kernel. -/
def Context.backlogOf (x : Context) (k : Nat) : List (Nat × Instr) := ((x.backlog.find? fun e => e.1 == k).map (·.2)).getD []

/-- What is still to be replayed of a kernel's backlog (R297). -/
def State.toReplay (s : State) (k : Kernel) : List (Nat × Instr) :=
  match s.ctx? k.ctx with | some x => x.backlogOf k.seq | none => []

/-- A kernel is pre-empted, or has been resumed and its backlog is not replayed yet: traffic to it goes to the backlog ring (R252,
R297). -/
def State.kernelAway (s : State) (k : Kernel) : Bool := k.phase == .preempted || (k.phase == .bound && !(s.toReplay k).isEmpty)

/-- The kernel of a window is away. -/
def State.isAway (s : State) (w : Window) : Bool := (s.kernel? w.kernel).any s.kernelAway

/-- Bytes of a ring entry: a 64-byte header and its data flits; the elements of a sum travel as 128-bit values (R286, R296). -/
def entryBytes : Instr → Nat
  | .remoteAccessArrival a => 64 + ceilDiv (match a.coll with
      | some c => if c.op = 2 ∧ c.rop = 0 then 16 * c.fixed.length else a.data.length
      | none => a.data.length) 64 * 64
  | _ => 64

/-- An entry put into the backlog ring of a kernel's context at a bay, which its kernels share; none where it does not fit (R296,
R297). -/
def State.toBacklog (s : State) (ctx kernel bay : Nat) (i : Instr) : Option State :=
  match s.ctx? ctx, s.kernel? kernel with
  | some x, some k =>
    let l := x.backlogOf kernel
    let used := ((x.backlog.flatMap fun e => e.2.filter fun e => e.1 == bay).map fun e => entryBytes e.2).sum
    if k.backlog < used + entryBytes i then none
    else some (s.onCtx ctx fun x => { x with backlog := (x.backlog.filter fun e => e.1 != kernel) ++ [(kernel, l ++ [(bay, i)])] })
  | _, _ => none

/-- Whether an event brings the rest of an access of a window. -/
def restOf (k : WinKey) : Instr → Bool
  | .remoteAccessArrival b => b.key == k && b.rest.isSome
  | _ => false

/-- Whether an access is of a window. -/
def accessOf (k : WinKey) : Instr → Bool
  | .remoteAccessArrival b => b.key == k
  | _ => false

/-- Whether accepted accesses of a window wait in its context's backlog ring: no epoch of it closes or opens meanwhile (R252). -/
def State.inBacklog (s : State) (w : Window) : Bool :=
  match s.ctx? w.key.ctx with
  | some x => (x.backlogOf w.kernel).any fun e => accessOf w.key e.2
  | none => false

/-- Whether the ports hold accesses of a window that they have accepted and not applied in full: ones that wait for a translation, ones
applied in part, ones in the backlog ring (R179, R246, R252). -/
def State.unapplied (s : State) (w : Window) : Bool :=
  !w.stalled.isEmpty || s.agenda.any (fun e => restOf w.key e.ev) ||
    s.inBacklog w

/-! ## Fence intervals (R247) -/

/-- How many accesses of an interval the port has received from a rank. -/
def Window.gotten (w : Window) (rank fi : Nat) : Nat :=
  ((w.received.find? fun r => r.1 == rank && r.2.1 == fi).map (·.2.2)).getD 0

/-- An access of an interval received. -/
def Window.count1 (w : Window) (a : Access) : Window :=
  { w with received := (w.received.filter fun r => !(r.1 == a.org.rank && r.2.1 == a.fi)) ++ [(a.org.rank, a.fi, w.gotten a.org.rank a.fi + 1)] }

/-- Whether the present interval can close: the next WFENCE has arrived from every member, and every access they counted. -/
def Window.canClose (w : Window) : Bool :=
  let nf := (w.fi + 1) % 256
  (List.range w.count).all fun r => w.wfences.any fun m => m.rank == r && m.fi == nf && decide (m.count ≤ w.gotten r w.fi)

/-- The interval closes, and the next opens unless END was set (R247, R252). -/
def State.closeInterval (s : State) (k : WinKey) : State :=
  match s.window? k with
  | none => s
  | some w =>
    if !w.canClose || s.inBacklog w then s
    else
      let nf := (w.fi + 1) % 256
      let last := w.wfences.any fun m => m.rank == w.rank && m.fi == nf && m.last
      s.onWindow k fun w =>
        { w with fi := nf, opened := !last, mode := if last then .none else .fence,
                 wfences := w.wfences.filter (fun m => m.fi != nf), received := w.received.filter (fun r => r.2.1 != w.fi) }

/-! ## Passive locks (R250, R251) -/

/-- The lock granted to an entry. -/
def State.grantLock (s : State) (k : WinKey) (e : LockEntry) : State :=
  let s := (s.onWindow k fun w => { w with holders := w.holders ++ [{ e with since := s.now }] }).answer e.core e.op 0
  match s.window? k with
  | some w => if w.lockb = 0 then s else s.after (w.lockb * 2 ^ 16) none (.lockBreak k)
  | none => s

/-- Grants from the head of the queue: an exclusive head when the lock is free; shared heads while it is not exclusive. -/
def State.grantHead (s : State) (k : WinKey) : Nat → State
  | 0 => s
  | n + 1 => match s.window? k with
    | none => s
    | some w => match w.queue with
      | [] => if w.holders.isEmpty && w.mode == .lock then s.onWindow k fun w => { w with mode := .none } else s
      | e :: rest =>
        if (e.excl && w.holders.isEmpty) || (!e.excl && !w.holders.any (·.excl)) then
          ((s.onWindow k fun w => { w with queue := rest }).grantLock k e).grantHead k n
        else s

/-- LOCK_REQUEST_ARRIVAL: granted, queued, or refused at a full queue and retried after 4,096 beats; one that finds no window completes
with 0x01 and is recorded nowhere. [DESIGN CHOICE: log 160] -/
def execLockRequestArrival (m : LockMsg) (s : State) : Result :=
  .next (match s.window? m.key with
    | none => s.answer m.core m.op 1
    | some w =>
      if w.queue.length < 64 then
        (s.onWindow m.key fun w => { w with mode := .lock, queue := w.queue ++ [⟨m.rank, m.excl, m.core, m.op, s.now⟩] }).grantHead m.key 65
      else s.after 2048 none (.lockRetry m))

/-- LOCK_RETRY: the request sets out again (R185). -/
def execLockRetry (m : LockMsg) (s : State) : Result := .next (s.send none (.lockRequestArrival m))

/-- Whether a port still has accesses of a rank to apply: accepted ones, and ones held behind them. -/
def State.rankUnapplied (s : State) (w : Window) (rank : Nat) : Bool :=
  let mine (i : Instr) : Bool := match i with | .remoteAccessArrival b => b.org.rank == rank | _ => false
  (w.stalled ++ w.held).any (fun b => b.org.rank == rank) || s.agenda.any (fun e => restOf w.key e.ev && mine e.ev) ||
    (match s.ctx? w.key.ctx with
      | some x => (x.backlogOf w.kernel).any fun e => accessOf w.key e.2 && mine e.2
      | none => false)

/-- UNLOCK_ARRIVAL (R250): every access of the holder comes before the next grant (R270); one that finds no window completes with 0x01
and is recorded nowhere. [DESIGN CHOICE: log 160] -/
def execUnlockArrival (m : LockMsg) (s : State) : Result :=
  .next (match s.window? m.key with
    | none => s.answer m.core m.op 1
    | some w =>
      if s.rankUnapplied w m.rank then s.after 1 none (.unlockArrival m) else
      if w.broken.contains m.rank then
        (s.onWindow m.key fun w => { w with broken := w.broken.filter (· != m.rank) }).answer m.core m.op 4
      else if w.holders.any fun h => h.rank == m.rank then
        let drop (l : List LockEntry) : List LockEntry := l.eraseP fun h => h.rank == m.rank
        ((s.onWindow m.key fun w => { w with holders := drop w.holders }).grantHead m.key 65).answer m.core m.op 0
      else
        (s.onWindow m.key fun w => { w with status := w.status.record 2 0x4B 0 0 m.rank s.now }).answer m.core m.op 1)

/-- LOCK_BREAK: each holder past its bound while another waits is broken (R251), once its accepted accesses are applied (R252, R270). -/
def execLockBreak (k : WinKey) (s : State) : Result :=
  .next (match s.window? k with
    | none => s
    | some w =>
      let late := w.holders.filter fun h => decide (h.since + w.lockb * 2 ^ 16 ≤ s.now)
      if w.lockb = 0 ∨ late.isEmpty then s
      else if w.queue.isEmpty || late.any (fun h => s.rankUnapplied w h.rank) then s.after 1 none (.lockBreak k)
      else (s.onWindow k fun w =>
        { w with broken := w.broken ++ late.map (·.rank), holders := w.holders.filter fun h => !late.contains h }).grantHead k 65)

/-! ## Post, start, complete, wait (R248, R249) -/

/-- The targets of an open WSTART whose posts have come are taken (R249). -/
def Window.takePosts (w : Window) : Window :=
  match w.started with
  | none => w
  | some g =>
    (g.ranks.filter fun r => !w.taken.contains r).foldl (fun w r =>
      let n := Sparse.get 0 w.latch r
      if n = 0 then w else { w with latch := Sparse.set 0 w.latch r (n - 1), taken := w.taken ++ [r] }) w

/-- POST_ARRIVAL: counted in the latch of the member, or dropped at 255 and recorded; its receipt is answered to the target,
whose WPOST awaits it (R185, R249). -/
def execPostArrival (m : WinMsg) (s : State) : Result :=
  .next ((s.onWindow m.key fun w =>
    if Sparse.get 0 w.latch m.rank = 255 then { w with status := w.status.record 2 0x46 0 0 m.rank s.now }
    else { w with latch := Sparse.set 0 w.latch m.rank (Sparse.get 0 w.latch m.rank + 1) }.takePosts).answer m.fi m.count 0)

/-- An exposure that is closing and has every notice ends, and its WWAIT completes (R248). -/
def State.closeExposure (s : State) (k : WinKey) : State :=
  match s.window? k with
  | none => s
  | some w => match w.exposed, w.closing with
    | some g, some op =>
      if g.ranks.all (fun r => w.compl.contains r) && !s.inBacklog w then
        (s.onWindow k fun w => { w with exposed := none, compl := [], closing := none, mode := .none }).answer w.agent op 0
      else s
    | _, _ => s

/-- COMPLETION_NOTICE_ARRIVAL (R248); its receipt is answered to the origin, whose WCMPL awaits it (R185). -/
def execCompletionNoticeArrival (m : WinMsg) (s : State) : Result :=
  .next ((s.onWindow m.key fun w => match w.exposed with
    | some g => if g.ranks.contains m.rank && !w.compl.contains m.rank then { w with compl := w.compl ++ [m.rank] } else w
    | none => w).closeExposure m.key |>.answer m.fi m.count 0)

end Sys2Proof.Machine
end

