-- ==== Sys2Proof/Machine/Collective.lean ====
section
/-! DEFINITION. Collectives (R196 to R198, R285 to R293): the walker's nest, the fixed-point reduction, the destination port, the
agreement on success or abort, the outcome block; and the arrival of any remote access at its port (R242, R246, R252). -/

namespace Sys2Proof.Machine

/-! ## The record (R196) -/

/-- The digest of the fields that must agree (R285): OP, DTY, ROP, E, SHARD, P, DEADLINE, WIN. -/
def collDigest (d : Nat) : List Int :=
  [field 787 784 d, field 790 788 d, field 793 792 d, signedOf 8 (field 807 800 d), field 791 791 d, field 844 832 d,
   field 1023 992 d, field 775 768 d]

/-! ## The fixed point (R286, R287) -/

/-- A value of a record's type. -/
def collVal (dty x : Nat) : Val := if dty = 3 then shBf16.decodeIeee x else shF32.decodeIeee x

/-- tofix: the fixed-point value, none for a NaN, and whether it saturated. -/
def toFix (dty : Nat) (e : Int) (x : Nat) : Option (BitVec 128) × Bool :=
  if dty = 1 then (some (BitVec.ofInt 128 (signedOf 32 x)), false)
  else
    let top : Int := 2 ^ 126 - 1
    match collVal dty x with
    | .nan _ => (none, false)
    | .inf neg => (some (BitVec.ofInt 128 (if neg then -top else top)), true)
    | .fin neg m ex =>
      let q := (roundInt false neg m (ex - (e - 126))).1
      if 2 ^ 126 ≤ q.natAbs then (some (BitVec.ofInt 128 (if q < 0 then -top else top)), true) else (some (BitVec.ofInt 128 q), false)

/-- combine of R286, or the maximum or minimum of R287, whose values stand as their codes. -/
def collCombine (rop dty : Nat) (u w : Option (BitVec 128)) : Option (BitVec 128) :=
  match u, w with
  | some u, some w => match rop with
    | 0 => some (u + w)
    | r => some (BitVec.ofNat 128 (elemCombine r dty u.toNat w.toNat))
  | _, _ => none

/-- result of R286: the element's code, whether it counts as overflowed, whether it is a NaN. -/
def collResult (rop dty : Nat) (e : Int) (acc : Option (BitVec 128)) : Nat × Bool × Bool :=
  let sh := if dty = 3 then shBf16 else shF32
  match acc with
  | none => ((sh.round false (.nan false, false)).1, false, true)
  | some u =>
    if rop ≠ 0 then
      if dty ≠ 1 && (collVal dty u.toNat).isNan then ((sh.round false (.nan false, false)).1, false, true) else (u.toNat, false, false)
    else if dty = 1 then
      let x := u.toInt
      let y := max (-(2 ^ 31 : Int)) (min x (2 ^ 31 - 1))
      (wrapNat 32 y, x != y, false)
    else
      let x := u.toInt
      ((sh.round false (.fin (decide (x < 0)) x.natAbs (e - 126), false)).1, decide (2 ^ 126 ≤ x.natAbs), false)

/-! ## The destination port (R285, R288, R289) -/

/-- A count kept by rank. -/
def bump (l : List (Nat × Nat)) (r : Nat) : List (Nat × Nat) := Sparse.set 0 l r (Sparse.get 0 l r + 1)

/-- An empty record of a collective at a port. -/
def CollPort.fresh (k : WinKey) (src : Option Nat) (num : Nat) : CollPort := ⟨k, src, num, [], [], [], 0, [], [], [], [], false, [], false, false, []⟩

/-- Whether a record is the one of a name. -/
def CollPort.is (p : CollPort) (k : WinKey) (src : Option Nat) (num : Nat) : Bool := p.key == k && p.src == src && p.num == num

/-- The port's record of a collective at one member, made when the first of its messages comes. -/
def State.coll (s : State) (k : WinKey) (src : Option Nat) (num : Nat) : CollPort :=
  (s.colls.find? fun p => p.is k src num).getD (CollPort.fresh k src num)

/-- The port's record put back. -/
def State.putColl (s : State) (p : CollPort) : State :=
  { s with colls := (s.colls.filter fun q => !q.is p.key p.src p.num) ++ [p] }

/-- Which of the collectives that a member shares with another is its own number `num` (R285). -/
def Window.collSeq (w : Window) (num rank : Nat) : Nat := ((w.colls.take num).filter fun p => decide (rank < p)).length

/-- A walker of a core by the member it works for. -/
def Core.walkerFor (c : Core) (k : WinKey) (num : Nat) : Option Walker :=
  c.walkers.find? fun wk => wk.key == k && wk.num == num && wk.state != 3

/-- The walker of the agent of a member for a collective that has not ended. -/
def State.walkerOf (s : State) (k : WinKey) (num : Nat) : Option Walker :=
  (s.window? k).bind fun w => (s.agentCore w).walkerFor k num

/-- One walker of a core changed. -/
def Core.onWalker (c : Core) (k : WinKey) (num : Nat) (f : Walker → Walker) : Core :=
  { c with walkers := c.walkers.map fun wk => if wk.key = k ∧ wk.num = num ∧ wk.state ≠ 3 then f wk else wk }

/-- The agent's walker changed. -/
def State.onWalker (s : State) (k : WinKey) (num : Nat) (f : Walker → Walker) : State :=
  match s.window? k with
  | some w => s.onAgent w fun c => c.onWalker k num f
  | none => s

/-- The record that a message of a rank joins: the one of the member's own collective, or, where the member has not started it, what
has come from that rank; none where that collective is over (R292). [DESIGN CHOICE: log 51] -/
def State.collOf (s : State) (k : WinKey) (rank seq : Nat) : Option (Option Nat × Nat) :=
  match s.window? k with
  | none => some (some rank, seq)
  | some w => match ((List.range w.colls.length).filter fun m => decide (rank < w.colls.getD m 0))[seq]? with
    | some m => if (s.walkerOf k m).isSome then some (none, m) else none
    | none => some (some rank, seq)

/-- A value combined into the accumulator of an element. -/
def CollPort.combine (p : CollPort) (rop dty : Nat) (e : Nat × Option (BitVec 128)) : CollPort :=
  match p.acc.find? fun x => x.1 == e.1 with
  | some x => { p with acc := p.acc.map fun y => if y.1 = e.1 then (e.1, collCombine rop dty x.2 e.2) else y }
  | none => { p with acc := Sparse.put p.acc e.1 e.2 }

/-- A reduce transfer combined into the accumulators. -/
def CollPort.reduce (p : CollPort) (a : Access) (c : CollPart) : CollPort :=
  (c.fixed.mapIdx fun i v => (a.off + dtyBytes a.dty * i, v)).foldl (fun p e => p.combine c.rop a.dty e) p

/-- What came from one sender before the member started joined to the member's record. -/
def CollPort.join (d : Nat) (p q : CollPort) : CollPort :=
  let p := q.acc.foldl (fun p e => p.combine (field 793 792 d) (field 790 788 d) e) p
  { p with ovf := (p.ovf ++ q.ovf).dedup, notices := q.notices.foldl (fun l n => Sparse.put l n.1 n.2) p.notices,
           got := q.got.foldl (fun l n => Sparse.put l n.1 n.2) p.got, finals := (p.finals ++ q.finals).dedup,
           finished := p.finished ++ q.finished, aborted := p.aborted || q.aborted, rejected := p.rejected || q.rejected,
           resident := p.resident ++ q.resident.filter fun r => p.resident.all fun t => t.1 != r.1 }

/-- Contiguous elements of one 256-byte block joined into runs of bytes. -/
def joinRuns : List (Nat × List Byte) → List (Nat × List Byte)
  | [] => []
  | (o, b) :: rest => match joinRuns rest with
    | (o2, b2) :: r => if o + b.length = o2 ∧ o / 256 = o2 / 256 then (o, b ++ b2) :: r else (o, b) :: (o2, b2) :: r
    | [] => [(o, b)]

/-- A collective transfer's access from a member to a rank. -/
def State.collAccess (s : State) (w : Window) (core op d fi : Nat) (opened : Bool) (rank off len : Nat) (data : List Byte) (part : Nat)
    (c : CollPart) : Access :=
  let g := (s.memberBay w rank).getD 0
  { key := { w.key with bay := g % 8 }, node := g / 8,
    org := ⟨s.node.toNat, ((s.kernel? w.kernel).bind fun k => k.ordOf (s.globalBay w.key.bay)).getD 0, w.rank, core, op⟩, opc := 0x80, fi := fi,
    opened := opened, off := off, len := len, aop := 0, dty := field 790 788 d, rce := false, rcnt := field 817 808 d,
    clr := field 783 781 d, cmpv := 0, step := 0, data := data, tagOk := true, agent := false, after := [], part := part, coll := some c }

/-- A message to every participant of a collective, with the place that the collective has among those it shares with this member. -/
def State.toParticipants (s : State) (w : Window) (wk : Walker) (mk : Nat → WinKey → Nat → Instr) : State :=
  s.toMembers w (List.range (field 844 832 wk.record.toNat)) fun r key => mk r key (w.collSeq wk.num r)

/-- What the translation of runs of a member's range says, some pages having been refused (R246, R378). -/
def State.runsFound (s : State) (w : Window) (refused : List Nat) (runs : List (Nat × List Byte)) : Found :=
  if w.pool then .ok []
  else match s.ctx? w.key.ctx with
    | none => .ok []
    | some x => x.translate s.node.toNat w.key.bay refused [] (runs.map fun r => (w.base + r.1, r.2.length))

/-- Runs of bytes at offsets of a member's window, written in its pool or its memory, where leases of their lines are written back first
(R255); a run that may not be written is not. The answer is whether a partial write into a poisoned burst was dropped (R170). -/
def State.storeRuns (s : State) (w : Window) (refused : List Nat) (runs : List (Nat × List Byte)) : State × Bool :=
  runs.foldl (fun (st : State × Bool) r =>
    if w.pool then (st.1.onAgent w fun c => c.poolWriteRemote (cellsAt (w.base + r.1) r.2), st.2)
    else match st.1.runsFound w refused [r] with
      | .ok ph =>
        let as := (List.range r.2.length).map fun i => Sparse.get 0 ph ((w.base + r.1 + i) / 256) + (w.base + r.1 + i) % 256
        let q := (st.1.writeBack (as.map (· / 256)).dedup).memStore (as.zip r.2)
        (q.1, st.2 || !q.2.isEmpty)
      | _ => st) (s, false)

/-- The faults of pages that a member's port or walker waits for, posted; a migrating page is only waited for (R246, R275, R379). -/
def State.postPages (s : State) (w : Window) (engine : Nat) (pages : List (Nat × Nat)) : State :=
  pages.foldl (fun s p =>
    if p.2 = 3 then s else s.postFault w.key.ctx p.1 engine (if engine = 3 then 0xFF else coreIdOf w.agent) w.key.bay p.2) s

/-- The pages among some whose faults are waited for: not those that migrate. -/
def faultPages (pages : List (Nat × Nat)) : List Nat := ((pages.filter fun p => p.2 != 3).map (·.1)).dedup

/-- The spill of one block of a record (R288): its accumulators stay exact; once the done notice of the member's own participant has
arrived, the port may write Round of what they hold so far into the block. [DESIGN CHOICE: log 50] -/
def State.spillBlock (s : State) (p : CollPort) (block : Nat) : State :=
  let s := s.putColl { p with resident := p.resident.filter fun r => r.1 != block }
  match s.window? p.key, (if p.src.isNone then s.walkerOf p.key p.num else none) with
  | some w, some wk =>
    if p.notices.any fun m => m.1 == w.rank then
      let d := wk.record.toNat
      let rs := (p.acc.filter fun e => e.1 / 256 == block).map fun e =>
        (e.1, bytesOf (dtyBytes (field 790 788 d)) (collResult (field 793 792 d) (field 790 788 d) (signedOf 8 (field 807 800 d)) e.2).1)
      let t := { s with fresh := s.fresh + 1 }
      if Config.choice s.fresh then match s.runsFound w wk.refused (joinRuns rs) with
        | .wait _ => t
        | _ => ((t.putColl { t.coll p.key p.src p.num with partials := (p.partials ++ [block]).dedup }).storeRuns w wk.refused (joinRuns rs)).1
      else t
    else s
  | _, _ => s

/-- Whether two records of a port are of one collective of a member: its own one, or what has come from two senders before it. -/
def CollPort.sameColl (p q : CollPort) : Bool := p.key == q.key && p.src.isNone == q.src.isNone && p.num == q.num

/-- The full accumulator store of a port spills its oldest block (R288): it holds 512 blocks; what several senders have sent to one block
is one block. [DESIGN CHOICE: log 50] -/
def State.spillOldest (s : State) (bay port : Nat) : State :=
  let all := (s.colls.filter fun p => p.key.bay == bay).flatMap fun p => (p.resident.filter fun r => r.2.2 == port).map fun r => (p, r)
  match all with
  | [] => s
  | e :: rest =>
    let one : List (WinKey × Bool × Nat × Nat) := (all.map fun e => (e.1.key, e.1.src.isNone, e.1.num, e.2.1)).dedup
    if one.length ≤ 512 then s
    else
      let old := rest.foldl (fun (m : CollPort × Nat × Nat × Nat) e => if e.2.2.1 < m.2.2.1 then e else m) e
      (s.colls.filter fun p => p.sameColl old.1).foldl (fun s p => s.spillBlock p old.2.1) s

/-- The blocks that a reduce transfer touches come into the accumulator store of the port it enters by. -/
def State.residentBlocks (s : State) (a : Access) (p : CollPort) : State :=
  let port := a.clr % 4
  let blocks := (List.range (ceilDiv (a.off % 256 + a.len) 256)).map fun i => a.off / 256 + i
  let new := blocks.filter fun b => p.resident.all fun r => r.1 != b
  let s := s.putColl { p with resident := p.resident ++ new.map fun b => (b, s.now, port) }
  new.foldl (fun s _ => s.spillOldest a.key.bay port) s

/-- The final values of a member's blocks: offset, code, whether it overflowed, whether it is a NaN (R286, R289). -/
def CollPort.results (p : CollPort) (d : Nat) : List (Nat × Nat × Bool × Bool) :=
  p.acc.map fun e => (e.1, collResult (field 793 792 d) (field 790 788 d) (signedOf 8 (field 807 800 d)) e.2)

/-- The walker of a core takes its next turn in the next cc. -/
def State.walkAgain (s : State) (core : Nat) : State :=
  let pending (e : Due) : Bool := e.core == some core && match e.ev with | .walkerEmit => true | _ => false
  if s.agenda.any pending then s else s.after 1 (some core) .walkerEmit

/-- Finalising (R289): every result is rounded once and written, and with SHARD 0 also put to every other participant. A page that a
write waits for is waited for (R246, R275). -/
def State.finalise (s : State) (w : Window) (wk : Walker) : State :=
  let d := wk.record.toNat
  let p := s.coll w.key none wk.num
  let rs := p.results d
  let runs := joinRuns (rs.map fun r => (r.1, bytesOf (dtyBytes (field 790 788 d)) r.2.1))
  match s.runsFound w wk.refused runs with
  | .wait pages => ((s.postPages w 3 pages).onWalker w.key wk.num fun wk => { wk with pages := faultPages pages }).walkAgain w.agent
  | _ =>
    let p := { p with acc := [], ovf := (p.ovf ++ (rs.filter fun r => r.2.2.1).map (·.1)).dedup,
                      nans := (rs.filter fun r => r.2.2.2).length, finalised := true, resident := [],
                      finals := (p.finals ++ rs.map (·.1)).dedup }
    let r := (s.putColl p).storeRuns w wk.refused runs
    let s := if r.2 then r.1.onAgent w fun c => c.memoryError wk.op 0 else r.1
    if field 787 784 d = 2 ∧ field 791 791 d = 0 then
      let others := (List.range (field 844 832 d)).filter (· != w.rank)
      let as := (others.map fun r => runs.map fun e =>
        s.collAccess w w.agent wk.op d w.agFi w.agOpen r e.1 e.2.length e.2 1 ⟨0, 0, 0, false, true, [], 0, false, w.collSeq wk.num r⟩).flatten
      (as.foldl State.sendAccess s).onWalker w.key wk.num fun wk => { wk with finals := wk.finals + as.length }
    else s

/-- What a member still has to do for its collective: finalise once every notice and transfer is in, and send FINISHED once its
transfers and deliveries are acknowledged (R289, R290). The stores of a collective are visible once they are acknowledged, those of a
reduction once its own member is finalised too (R267). -/
def State.progress (s : State) (k : WinKey) (num : Nat) : State :=
  match s.window? k, s.walkerOf k num with
  | some w, some wk =>
    let d := wk.record.toNat
    let p := s.coll k none num
    let ranks := List.range (field 844 832 d)
    let all := ranks.all fun r => p.notices.any fun m => m.1 == r && decide (m.2 ≤ Sparse.get 0 p.got r)
    let s := if all && !p.finalised && wk.pages.isEmpty then s.finalise w wk else s
    match s.walkerOf k num with
    | none => s
    | some wk =>
      let acked := wk.noticed && wk.landed == wk.emitted && wk.finals == 0
      let s := if acked && (field 787 784 d != 2 || (s.coll k none num).finalised) then s.onAgent w fun c => c.finishDrain wk.op else s
      if acked && !wk.finishedSent && (s.coll k none num).finalised then
        (s.onWalker k num fun wk => { wk with finishedSent := true }).toParticipants w wk fun _ key seq =>
          .collFinishedArrival ⟨key, w.rank, collDigest d, bit wk.rejected, seq⟩
      else s
  | _, _ => s

/-! ## The outcome block (R291) -/

/-- Whether a block holds final values (R291): at every element that this member's own transfers name in it, or, where they name none, at
some. [DESIGN CHOICE: log 162] -/
def CollPort.blockFinal (p : CollPort) (d rank block : Nat) : Bool :=
  let n := max (dtyBytes (field 790 788 d)) 1
  let own := (nestTransfers d rank).flatMap fun t => (List.range (field 887 864 d / n)).filterMap fun i =>
    let at_ := t.2.2.toNat + n * i
    if at_ / 256 = block then some at_ else none
  p.finals.any (fun e => e / 256 == block) && own.all fun e => p.finals.contains e

/-- The outcome block, and with an aborted reduction the bitmap, of a member. -/
def outcomeBytes (p : CollPort) (w : Window) (d elapsed status : Nat) : List Byte :=
  let first := field 991 944 d / 256
  let total := ceilDiv w.len 256 - first
  let maps := field 787 784 d == 2 && status == 3
  let nblk := if maps then min total 16384 else 0
  let finals := if maps then (p.finals.map (· / 256)).dedup.filter fun b => p.blockFinal d w.rank b else []
  let partials := (p.partials ++ p.finals.map (· / 256)).dedup.filter fun b => !finals.contains b
  let st (n : Nat) : Nat := if finals.contains (first + n) then 2 else if partials.contains (first + n) then 1 else 0
  let beyond (l : List Nat) : Nat := if maps then (l.filter fun b => decide (first + nblk ≤ b)).length else 0
  bytesOf 8 status ++ bytesOf 8 elapsed ++ bytesOf 8 p.ovf.length ++ bytesOf 8 p.nans ++ bytesOf 8 nblk ++ bytesOf 8 (beyond partials) ++
    bytesOf 8 (beyond finals) ++ bytesOf 8 0 ++
    (List.range (ceilDiv nblk 4)).map fun i => BitVec.ofNat 8 (packLane 2 ((List.range 4).map fun j => if 4 * i + j < nblk then st (4 * i + j) else 0))

/-- A participant's collective ends: the outcome is written and then the handle completes (R290, R291); what the port held of it is
discarded (R292), and a walker that was still emitting, or had yet to start, ends its token. Its stores are over once each is
acknowledged (R267). [DESIGN CHOICE: log 135] -/
def State.endCollective (s : State) (k : WinKey) (num status : Nat) : State :=
  match s.window? k, s.walkerOf k num with
  | some w, some wk =>
    let p := s.coll k none num
    let bytes := outcomeBytes p w wk.record.toNat (2 * s.now - wk.relBeat) status
    let s := s.onAgent w fun c =>
      let c := c.poolWriteRemote (cellsAt (wk.recOff + 128) bytes)
      let c := (if wk.state ≤ 1 then c.finishLocal wk.op 0 0 else c).finishRemote wk.op status
      (if wk.landed = wk.emitted ∧ wk.finals = 0 then c.finishDrain wk.op else c).onWalker k num fun wk =>
        { wk with state := 3, status := status, aborted := status == 3, pages := [] }
    { s with colls := s.colls.filter fun q => !q.is k none num }
  | _, _ => s

/-- ABORT sent to every participant; this one ends INCOMPLETE (R290). -/
def State.abortCollective (s : State) (k : WinKey) (num : Nat) : State :=
  match s.window? k, s.walkerOf k num with
  | some w, some wk =>
    if wk.finishedSent then s
    else (s.toParticipants w wk fun _ key seq => .collAbortArrival ⟨key, w.rank, [], 0, seq⟩).endCollective k num 3
  | _, _ => s

/-- Every FINISHED has arrived: the handle completes, with 0x01 if any transfer was rejected (R290), or with 0x06 where one of its own
met a fence (R387). -/
def State.checkFinished (s : State) (k : WinKey) (num : Nat) : State :=
  match s.walkerOf k num with
  | some wk =>
    let p := s.coll k none num
    if (List.range (field 844 832 wk.record.toNat)).all fun r => p.finished.contains r then
      s.endCollective k num (if wk.status = 6 then 6 else if wk.rejected || p.rejected then 1 else 0)
    else s
  | none => s

/-- DONE_NOTICE_ARRIVAL (R289): stored in the backlog ring where the kernel is away (R296); a digest other than the member's own aborts
the collective (R285). -/
def execDoneNoticeArrival (m : CollMsg) (s : State) : Result :=
  .next (match s.collOf m.key m.rank m.seq with
    | none => s
    | some (src, num) =>
      let away : Option Window := (s.window? m.key).bind fun w => if s.isAway w then some w else none
      if let some w := away then
        (s.toBacklog m.key.ctx w.kernel m.key.bay (.doneNoticeArrival m)).getD (s.after 4096 none (.doneNoticeArrival m))
      else
        let p := s.coll m.key src num
        let s := s.putColl { p with notices := Sparse.put p.notices m.rank m.count, digest := if src.isSome then m.digest else p.digest }
        match (if src.isNone then s.walkerOf m.key num else none) with
        | some wk => if m.digest ≠ collDigest wk.record.toNat then s.abortCollective m.key num else s.progress m.key num
        | none => s)

/-- COLL_FINISHED_ARRIVAL (R290). -/
def execCollFinishedArrival (m : CollMsg) (s : State) : Result :=
  .next (match s.collOf m.key m.rank m.seq with
    | none => s
    | some (src, num) =>
      let p := s.coll m.key src num
      let s := s.putColl { p with finished := (p.finished.filter (· != m.rank)) ++ [m.rank], rejected := p.rejected || m.count != 0 }
      if src.isNone then s.checkFinished m.key num else s)

/-- COLL_ABORT_ARRIVAL (R290, R292); one that comes before the member's COLL has started ends that COLL at its start. -/
def execCollAbortArrival (m : CollMsg) (s : State) : Result :=
  .next (match s.collOf m.key m.rank m.seq with
    | none => s
    | some (none, num) => s.endCollective m.key num 3
    | some (src, num) => s.putColl { CollPort.fresh m.key src num with aborted := true })

/-- COLL_DEADLINE (R290): no effect once FINISHED has been sent or the collective has ended. -/
def execCollDeadline (m : CollMsg) (s : State) : Result :=
  .next (match s.walkerOf m.key m.seq with
    | some wk => if decide (wk.relBeat + field 1023 992 wk.record.toNat ≤ 2 * s.now) then s.abortCollective m.key m.seq else s
    | none => s)

/-! ## The walker (R197) -/

/-- Whether a transfer's own side lies outside the member's range; an empty transfer never does (R273). -/
def Window.outside (w : Window) (off : Int) (len : Nat) : Bool := len != 0 && (decide (off < 0) || decide ((w.len : Int) < off + len))

/-- The module-memory addresses of bytes of a member's own range, or none where they cannot be read. -/
def State.ownAddrs (s : State) (w : Window) (refused : List Nat) (off : Int) (len : Nat) : Option (List Nat) :=
  match s.ctx? w.key.ctx with
  | none => none
  | some x => match x.translate s.node.toNat w.key.bay refused [(w.base + off.toNat, len)] [] with
    | .ok ph => some ((List.range len).map fun i => Sparse.get 0 ph ((w.base + off.toNat + i) / 256) + (w.base + off.toNat + i) % 256)
    | _ => none

/-- Bytes of a member's own range, or none where they cannot be read. -/
def State.ownRange (s : State) (w : Window) (refused : List Nat) (off : Int) (len : Nat) : Option (List Byte) :=
  if w.outside off len then none
  else if len = 0 then some []
  else if w.pool then some ((s.agentCore w).poolBytes (w.base + off.toNat) len)
  else (s.ownAddrs w refused off len).map fun as => as.map s.readByte

/-- Before the walker reads a source: leases of its lines are written back (R255), and the puts that have written part of a whole block of
it write the rest (R293). -/
def State.beforeSource (s : State) (w : Window) (refused : List Nat) (off : Int) (len : Nat) : State :=
  if len = 0 ∨ w.outside off len then s
  else
    let s := if w.pool then s else match s.ownAddrs w refused off len with
      | some as => s.writeBack (as.map (· / 256)).dedup
      | none => s
    if s.underWay.isEmpty then s
    else (runBlocks (w.base + off.toNat, len)).foldl (fun s b =>
      ((s.windowSpans w (256 * b - w.base) 256).head?).elim s fun x => s.beforeBlock x) s

/-- The pages that the source of a transfer waits for (R246). -/
def State.ownMissing (s : State) (w : Window) (refused : List Nat) (off : Int) (len : Nat) : List (Nat × Nat) :=
  if len = 0 ∨ w.outside off len ∨ w.pool then []
  else match s.ctx? w.key.ctx with
    | none => []
    | some x => match x.translate s.node.toNat w.key.bay refused [(w.base + off.toNat, len)] [] with
      | .wait ps => ps
      | _ => []

/-- The emission of one transfer: put, get or reduce; a transfer whose own side lies outside the range counts as rejected. -/
def State.emitTransfer (s : State) (w : Window) (wk : Walker) (o : COp) (peer : Nat) (src dst : Int) : State :=
  let d := wk.record.toNat
  let len := field 887 864 d
  let op := field 787 784 d
  let part : CollPart :=
    ⟨op, field 793 792 d, signedOf 8 (field 807 800 d), bitOf 791 d, false, [], 0, bitOf 818 d, w.collSeq wk.num peer⟩
  let mk (off : Int) (data : List Byte) (c : CollPart) : Access :=
    s.collAccess w w.agent wk.op d o.fi o.opened peer (if off < 0 then 2 ^ 48 else off.toNat) len data (if op = 1 then 2 + dst.toNat else 0) c
  let go (s : State) (a : Access) : State :=
    (s.sendAccess a).onWalker w.key wk.num fun wk => { wk with emitted := wk.emitted + 1, sent := bump wk.sent peer }
  let bad : State := s.onWalker w.key wk.num fun wk => { wk with rejected := true }
  match op with
  | 1 => if w.outside dst len then bad else go s (mk src [] part)
  | _ =>
    let s := s.beforeSource w wk.refused src len
    match s.ownRange w wk.refused src len with
    | none => bad
    | some bs =>
      if op = 0 then go s (mk dst bs part)
      else
        let n := dtyBytes (field 790 788 d)
        let es := (List.range (len / n)).map fun i =>
          let x := natOf ((bs.drop (n * i)).take n)
          if field 793 792 d = 0 then toFix (field 790 788 d) (signedOf 8 (field 807 800 d)) x else (some (BitVec.ofNat 128 x), false)
        go s (mk dst bs { part with fixed := es.map (·.1), ovf := (es.mapIdx fun i e => if e.2 then 2 ^ i else 0).sum })

/-- The transfers of a get that are fetched again after a resume (R356). -/
def State.emitAgain (s : State) (wk : Walker) (o : COp) (w : Window) : State :=
  let d := wk.record.toNat
  let s := s.onWalker w.key wk.num fun wk => { wk with redo := [], emitted := wk.emitted - wk.redo.length }
  wk.redo.foldl (fun s part =>
    match (List.range (nestSize d)).findSome? fun n => (nestTransfer d wk.rank n).filter fun t => 2 + t.2.2.toNat == part with
    | some (peer, src, dst) => s.emitTransfer w { wk with redo := [] } o peer src dst
    | none => s) s

/-- One turn of the walker that is emitting: one iteration of the nest; after the last, local completion and the done notices (R175,
R197, R289). -/
def State.walkOn (s : State) (wk : Walker) (o : COp) (w : Window) : State :=
  let d := wk.record.toNat
  if nestSize d ≤ wk.next then
    let s := s.mapCore fun c =>
      (c.finishLocal wk.op 0 0).onWalker wk.key wk.num fun wk => { wk with state := 2, noticed := true }
    ((s.toParticipants w wk fun r key seq => .doneNoticeArrival ⟨key, w.rank, collDigest d, Sparse.get 0 wk.sent r, seq⟩).progress
      wk.key wk.num).wake
  else
    let step (s : State) : State :=
      (s.onWalker w.key wk.num fun wk => { wk with next := wk.next + 1 }).walkAgain s.core.ref
    match nestTransfer d wk.rank wk.next with
    | none => step s
    | some (peer, src, dst) =>
      match (if field 787 784 d = 1 then [] else s.ownMissing w wk.refused src (field 887 864 d)) with
      | [] => if s.core.room .c1 = 0 then s.walkAgain s.core.ref else step (s.emitTransfer w wk o peer src dst)
      | ps => ((s.postPages w 2 ps).onWalker w.key wk.num fun wk => { wk with pages := faultPages ps }).walkAgain s.core.ref

/-- WALKER_EMIT: a turn of the walker that is emitting, and of the ports of the core's other collectives. -/
def execWalkerEmit (s : State) : Result :=
  let s := (s.core.walkers.filter fun wk => !wk.redo.isEmpty && wk.state != 3).foldl (fun s wk => match s.core.op? wk.op, s.window? wk.key with
    | some o, some w => s.emitAgain wk o w
    | _, _ => s) s
  let s := (s.core.walkers.filter fun wk => wk.state == 2).foldl (fun s wk => s.progress wk.key wk.num) s
  .next (match s.core.walkers.find? fun wk => wk.state == 1 with
    | some wk => match s.core.op? wk.op, s.window? wk.key with
      | some o, some w => if wk.pages.isEmpty then s.walkOn wk o w else s
      | _, _ => s
    | none => s)

/-- The walkers of a core that have not ended, or whose stores are not over. -/
def Core.liveWalkers (c : Core) : List Walker := c.walkers.filter fun v => v.state != 3 || (c.op? v.op).any fun o => !o.drained

/-- The walker of a COLL as it enters at its release (R197, R285, R290): its deadline runs, what came before it is joined to its record,
an ABORT among that ends the collective, and a digest other than its own aborts it. One that the engine refuses at its acceptance, and
one of a rank at or above P, does not enter. -/
def State.enterWalker (s : State) (o : COp) : State :=
  let d := o.desc.toNat
  match s.ownWindow (field 775 768 d) with
  | none => s
  | some w =>
    if field 844 832 d ≤ w.rank ∨ w.count < field 844 832 d ∨ !w.live ∨ w.agent ≠ s.core.ref ∨ s.core.walkers.any (fun v => v.op == o.id) then s
    else
      let num := w.colls.length
      let wk : Walker := {
        op := o.id, record := o.desc, recOff := aOff o.area, key := w.key, num := num, rank := w.rank, next := 0, emitted := 0, landed := 0,
        rejected := false, sent := [], noticed := false, finishedSent := false, aborted := false, finals := 0, relBeat := 2 * o.relAt, status := 0,
        state := 0 }
      let s := (s.mapCore fun c => { c with walkers := c.liveWalkers ++ [wk] }).onWindow w.key fun w => { w with colls := w.colls ++ [field 844 832 d] }
      let early := s.colls.filter fun p => p.key == w.key && match p.src with
        | some r => decide (r < field 844 832 d) && p.num == w.collSeq num r
        | none => false
      let joined := early.foldl (CollPort.join d) (CollPort.fresh w.key none num)
      let s := { s with colls := (s.colls.filter fun p => !early.contains p) ++ [joined] }
      let s := s.after (ceilDiv (2 * o.relAt + field 1023 992 d) 2 - s.now) none (.collDeadline ⟨w.key, w.rank, collDigest d, 0, num⟩)
      if joined.aborted then s.endCollective w.key num 3
      else if early.any fun p => !p.notices.isEmpty && p.digest != collDigest d then s.abortCollective w.key num
      else s

/-- A COLL whose walker never emits, as COLLQ describes it: one refused at acceptance (R197, R198), one of a rank at or above P (R285). -/
def State.deadWalker (s : State) (o : COp) (status : Nat) : State :=
  s.mapCore fun c => { c with walkers := (c.liveWalkers.filter fun v => v.op != o.id) ++ [{
    op := o.id, record := o.desc, recOff := aOff o.area, key := ⟨bayOf c.ref, 0, 0⟩, num := 0, rank := 0, next := 0, emitted := 0, landed := 0,
    rejected := false, sent := [], noticed := false, finishedSent := false, aborted := false, finals := 0,
    relBeat := if status = 6 then 0 else 2 * o.relAt, status := status, state := 3 }] }

/-- The walker started at the acceptance of its COLL (R197). The handle of a rank at or above P completes at once with 0x01 (R285), and so
does that of a COLL that a core other than the window's agent issues. [DESIGN CHOICE: log 161] -/
def State.startWalker (s : State) (o : COp) : State :=
  let d := o.desc.toNat
  match s.ownWindow (field 775 768 d) with
  | none => s
  | some w =>
    if field 844 832 d ≤ w.rank ∨ w.agent ≠ s.core.ref then
      (s.mapCore fun c => ((c.finishLocal o.id 0 0).finishRemote o.id 1).finishDrain o.id).deadWalker o 1
    else
      let s := s.enterWalker o
      (s.mapCore fun c => { c with walkers := c.walkers.map fun wk => if wk.op = o.id ∧ wk.state = 0 then { wk with state := 1 } else wk }).walkAgain
        s.core.ref

/-- COLLQ's 32 bytes (R198): of the most recent COLL, which may still be withheld, or be released and wait. [DEDUCED: log 136] -/
def Core.collStatus (c : Core) (now : Nat) : List Byte :=
  let state (emitted landed st status elapsed : Nat) : List Byte :=
    bytesOf 4 emitted ++ bytesOf 4 landed ++ bytesOf 1 st ++ bytesOf 1 status ++ bytesOf 14 0 ++ bytesOf 8 elapsed
  let ids := (c.ops.filter fun o => o.opc == 0x80).map (·.id) ++ c.walkers.map (·.op)
  let last := ids.foldl max 0
  match c.walkers.find? fun w => w.op == last, c.ops.find? fun o => o.id == last && o.opc == 0x80 with
  | some w, _ => state w.emitted w.landed (max w.state 1) (if w.state = 3 then w.status else 0) (if w.status = 6 ∧ w.emitted = 0 then 0 else 2 * now - w.relBeat)
  | none, some o => if o.released then state 0 0 1 0 (2 * (now - o.relAt)) else state 0 0 4 0 0
  | none, none => state 0 0 0 0 0

/-! ## Arrival of a remote access (R242, R246, R252, R288) -/

/-- The increment that CEN asks for in a bay (R196). -/
def State.cenIncrement (s : State) (k : WinKey) (id core op : Nat) : State :=
  match s.window? k with
  | some w => s.after 0 none (.counterIncrement ⟨w.kernel, k.bay, id, 1, core, op, true, []⟩)
  | none => s

/-- A collective transfer that passed the port's checks; one of a collective that is over or aborted is dropped, and its sender told that
nothing of it is left (R292). A partial write into a poisoned burst is reported on the fences of the sender (R170). A get's destination is
the bay of its origin (R196). -/
def State.applyColl (s : State) (a : Access) (c : CollPart) (p : Place) : State :=
  match s.collOf a.key a.org.rank c.seq with
  | none => s.reply a 0 []
  | some (src, num) =>
    let q := s.coll a.key src num
    if q.aborted then s.reply a 0 [] else
    let q := if c.final then { q with finals := (q.finals ++ (List.range (a.len / max (dtyBytes a.dty) 1)).map fun i => a.off + dtyBytes a.dty * i).dedup }
      else { q with got := bump q.got a.org.rank }
    let s := s.putColl q
    let s := match c.op with
      | 0 =>
        let r := s.writePlace p a.data
        r.1.reply a (if r.2 then 0x100 else 0) []
      | 1 => let (bs, bad) := s.readPlace p a.len; s.reply a (if bad then 5 else 0) bs
      | _ =>
        let q := q.reduce a c
        let sat := (List.range c.fixed.length).filter fun i => bitOf i c.ovf
        (s.residentBlocks a { q with ovf := (q.ovf ++ sat.map fun i => a.off + dtyBytes a.dty * i).dedup }).reply a 0 []
    let s := if c.cen && c.op != 1 then s.cenIncrement a.key a.rcnt a.org.core a.org.op else s
    if src.isNone then s.progress a.key num else s

/-- A transfer that arrived and was not applied still counts toward the number its sender stated (R247, R289). -/
def State.countTransfer (s : State) (a : Access) : State :=
  match a.coll with
  | none => s
  | some c => if c.final then s else match s.collOf a.key a.org.rank c.seq with
    | none => s
    | some (src, num) =>
      let q := s.coll a.key src num
      let s := s.putColl { q with got := bump q.got a.org.rank }
      if src.isNone then s.progress a.key num else s

/-- A rejected access: recorded, and its handle completes with 0x01 (R181, R242, R259). -/
def State.rejectAccess (s : State) (a : Access) (cause : Nat) : State :=
  ((((s.reportLink a.org.node cause).recordReject a.key cause a.opc a.off a.len a.org).reply a 1 [])).countTransfer a

/-- An access that its port may not apply: it completes with 0x06 or 0x07 (R246). -/
def State.refuseAccess (s : State) (a : Access) (status : Nat) : State := (s.reply a status []).countTransfer a

/-- An access that passed every check, applied, `whole` where nothing may come between; one that meets a page without a translation waits
for its fault's answer, or for the end of its migration (R246, R275, R378). The port's lookups fill the bay's die TLB (R374). -/
def State.applyAccess (s : State) (a : Access) (w : Window) (whole : Bool) : State :=
  let run (s : State) (p : Place) : State := match a.coll with
    | some c => s.applyColl a c p
    | none => if whole then s.applyRest a p else s.applyAt a p
  if w.pool then run s (.pool w.agent (w.base + a.off))
  else if a.len = 0 then run s (.mem [])
  else match s.ctx? w.key.ctx with
    | none => s.refuseAccess a 6
    | some x =>
      let lo := w.base + a.off
      let n := a.len
      let writes := match a.coll with | some c => c.op != 1 | none => accessWrites a.opc
      let reads := match a.coll with | some c => c.op == 1 | none => a.opc != 0x43
      match x.translate s.node.toNat w.key.bay [] (if reads then [(lo, n)] else []) (if writes then [(lo, n)] else []) with
      | .ok ph =>
        let s := s.useDie w.key.bay x.id ((blocksOf [(lo, n)]).filterMap fun b => x.pageOf (256 * b)).dedup
        run s (.mem ((List.range n).map fun i => Sparse.get 0 ph ((lo + i) / 256) + (lo + i) % 256))
      | .refuse st _ => s.refuseAccess a (if st = 3 then 7 else 6)
      | .wait pages => (s.postPages w 3 pages).onWindow a.key fun w => { w with stalled := w.stalled ++ [{ a with pages := faultPages pages }] }

/-! ### Routes (R182, R241, R246, R247, R297) -/

/-- Whether two accesses take one route: the same origin core, colour and target bay. -/
def sameRoute (a b : Access) : Bool :=
  a.org.node == b.org.node && a.org.core == b.org.core && a.clr == b.clr && a.key.bay == b.key.bay

/-- The window whose ingress queue an access has to wait in: one that holds an earlier access of its route, or has yet to apply the
rest of one (R246, R247). -/
def State.routeHolder (s : State) (a : Access) : Option WinKey :=
  match s.windows.find? fun w => w.key.bay == a.key.bay && (w.stalled ++ w.held).any (sameRoute a) with
  | some w => some w.key
  | none => s.agenda.findSome? fun e => match e.ev with
    | .remoteAccessArrival b => if b.rest.isSome && sameRoute a b then some b.key else none
    | _ => none

/-- When the last of a route's accesses that a port turned away sets out again (R297). -/
def State.awayUntil (s : State) (a : Access) : Option Nat :=
  s.agenda.foldl (fun m e => match e.ev with
    | .targetAwayRetry b => if sameRoute a b then some (match m with | some t => max t e.at_ | none => e.at_) else m
    | _ => m) none

/-- An access turned away behind an earlier one of its route (R297). -/
def State.awayAt (s : State) (t : Nat) (a : Access) : State := { s with agenda := insertDue s.agenda ⟨t, none, .targetAwayRetry a⟩ }

/-- An access that a port turns away, 4,096 cc or more: those of its route that already await their retry set out after it (R241, R297). -/
def State.turnAway (s : State) (a : Access) : State :=
  let (d, s) := s.free Config.transit
  let t := s.now + 4096 + d
  let behind (e : Due) : Bool := match e.ev with | .targetAwayRetry b => sameRoute a b | _ => false
  let back := s.agenda.filter behind
  let s : State := { s with agenda := insertDue (s.agenda.filter fun e => !behind e) ⟨t, none, .targetAwayRetry a⟩ }
  back.foldl (fun s e => { s with agenda := insertDue s.agenda { e with at_ := max t e.at_ } }) s

/-- An access received and counted toward its interval: once, when the port decides on it (R247). [DEDUCED: log 137] -/
def State.received (s : State) (a : Access) : State := if a.agent then s.onWindow a.key fun w => w.count1 a else s

/-- An access at the head of its route checked and then applied, held, stored, turned away or rejected. -/
def State.atHead (s : State) (a : Access) : State :=
  match portCheck (s.window? a.key) a, s.window? a.key with
  | .reject c, _ => (s.received a).rejectAccess a c
  | .hold, _ => s.onWindow a.key fun w => { w with held := w.held ++ [a] }
  | .accept, none => s
  | .accept, some w =>
    if s.isAway w then match s.toBacklog a.key.ctx w.kernel a.key.bay (.remoteAccessArrival a) with
      | some s => s.received a
      | none => s.turnAway a
    else (s.received a).applyAccess a w false

/-- An access at its port: held behind what its route still waits for there, or decided. -/
def State.atPort (s : State) (a : Access) : State :=
  match s.routeHolder a with
  | some k => s.onWindow k fun w => { w with held := w.held ++ [a] }
  | none => s.atHead a

/-- An access that arrives: one behind an access of its route that was turned away is turned away too (R241, R297). -/
def State.checkAccess (s : State) (a : Access) : State :=
  match s.awayUntil a with
  | some t => s.awayAt t a
  | none => s.atPort a

/-- An access that passed its checks and waited, or is under way, goes on without a second check (R242, R246); where its kernel is away it
goes to the backlog ring, or is tried again later (R252, R296). [DEDUCED: log 92] -/
def State.reapply (s : State) (a : Access) : State :=
  match s.window? a.key with
  | some w =>
    if s.isAway w then (s.toBacklog a.key.ctx w.kernel a.key.bay (.remoteAccessArrival a)).getD (s.after 4096 none (.remoteAccessArrival a))
    else s.applyAccess a w false
  | none => s

/-- The leases of lines in a window's range are written back (R255). -/
def State.writeBackWindow (s : State) (w : Window) : State :=
  s.writeBack ((s.leases.filter fun l => (s.windowSpans w 0 w.len).any fun e =>
    e.1 == 0 && decide (e.2.1 < l.line * 256 + 256) && decide (l.line * 256 < e.2.1 + e.2.2)).map (·.line))

/-- A window of a retired kernel is removed once its ports hold nothing accepted of it (R179, R243). -/
def State.dropEnded (s : State) (k : WinKey) : State :=
  match s.window? k with
  | some w => if (s.kernel? w.kernel).any (fun j => j.phase == .retired) && !s.unapplied w then
      w.held.foldl State.checkAccess { s with windows := s.windows.filter fun v => v.key != k } else s
  | none => s

/-- The held accesses of a window tried again, each source's in order: those that waited for a translation and have their faults answered,
then those held for an interval or behind another (R246, R247, R275, R378). -/
def State.retryHeld (s : State) (k : WinKey) : State :=
  match s.window? k with
  | none => s
  | some w =>
    let (now, later) := w.stalled.partition fun a => a.pages.isEmpty
    (w.held.foldl State.checkAccess (now.foldl State.reapply (s.onWindow k fun w => { w with held := [], stalled := later }))).dropEnded k

/-- Whether an interval of a window can close, or its exposure end, now. -/
def State.ready (s : State) (w : Window) : Bool :=
  !s.inBacklog w && (decide (0 < w.count) && w.canClose ||
    match w.exposed, w.closing with
    | some g, some _ => g.ranks.all fun r => w.compl.contains r
    | _, _ => false)

/-- Every interval that can close is closed, with what it lets go on, and every exposure that can end ends (R247, R248, R252): an event at
one window may be the last that another one waited for. -/
def State.settleReady (s : State) : Nat → State
  | 0 => s
  | n + 1 => match s.windows.find? s.ready with
    | none => s
    | some w => (((s.closeInterval w.key).retryHeld w.key).closeExposure w.key).settleReady n

/-- A window's interval closed where it can be, and what was held for the next one tried, as often as an interval closes: no more than
two are ever under way (R247). Then whatever else that lets happen. -/
def State.settleWindow (s : State) (k : WinKey) : State :=
  ((List.range 3).foldl (fun s _ => (s.closeInterval k).retryHeld k) s).settleReady (4 * s.windows.length + 4)

/-- REMOTE_ACCESS_ARRIVAL: an access is checked (R242, R247), or more of one that is under way applied (R182). -/
def execRemoteAccessArrival (a : Access) (s : State) : Result :=
  .next ((if a.rest.isNone then s.checkAccess a else s.reapply a).settleWindow a.key)

/-- A WFENCE message at a port (R247): it is kept, and the interval closes once all are in; held accesses of the next proceed. -/
def State.wfenceIn (s : State) (m : WinMsg) : State :=
  (s.onWindow m.key fun w => { w with wfences := w.wfences ++ [m], mode := if w.mode = .none then .fence else w.mode }).settleWindow m.key

/-- WFENCE_ARRIVAL (R247). -/
def execWfenceArrival (m : WinMsg) (s : State) : Result := .next (s.wfenceIn m)

end Sys2Proof.Machine
end

