-- ==== Sys2Proof/Machine/Counters.lean ====
section
/-! DEFINITION. Counters, queue counters, triggers, barriers and bay atomics (R186 to R192, R294, R369, R370). -/

namespace Sys2Proof.Machine

/-! ## Counters (R186, R294) -/

/-- A kernel's counter. -/
def State.counter (s : State) (k bay id : Nat) : W64 :=
  match s.counters.find? fun c => c.kernel == k && c.bay == bay && c.id == id with
  | some c => c.value
  | none => 0

/-- A kernel's counter set. -/
def State.setCounter (s : State) (k bay id : Nat) (v : W64) : State :=
  { s with counters := (s.counters.filter fun c => !(c.kernel == k && c.bay == bay && c.id == id)) ++ [⟨k, bay, id, v⟩] }

/-- The answer to a counter operation: the value. -/
def State.answerValue (s : State) (core op status : Nat) (v : W64) : State :=
  let r : Reply := ⟨core, op, status, bytesOf 8 v.toNat, 0⟩
  if core < 1536 then s.send none (.remoteCompletion r) else s.emit (.remoteCompletion r)

/-- A queue changed. -/
def State.onQueue (s : State) (ctx qid : Nat) (f : TaskQueue → TaskQueue) : State :=
  { s with taskQueues := s.taskQueues.map fun q => if q.ctx = ctx ∧ q.qid = qid then f q else q }

/-- A queue. -/
def State.queue? (s : State) (ctx qid : Nat) : Option TaskQueue := s.taskQueues.find? fun q => q.ctx == ctx && q.qid == qid

/-- An increment, a read or a take of a queue counter (R370). -/
def State.queueMsg (s : State) (m : CtrMsg) (ctx qid : Nat) (fill : Bool) : State :=
  match s.queue? ctx qid with
  | none => s.answerValue m.core m.op 2 0
  | some q =>
    let v := if fill then q.fill else q.free
    let set (v : W64) (s : State) : State := s.onQueue ctx qid fun q => if fill then { q with fill := v } else { q with free := v }
    if m.inc.toInt < 0 then
      let n := (-m.inc.toInt).toNat
      if q.cap < n then s.answerValue m.core m.op 2 v
      else
        (s.onQueue ctx qid fun q =>
          if fill then { q with fillTakes := q.fillTakes ++ [⟨m.core, m.op, n⟩] } else { q with freeTakes := q.freeTakes ++ [⟨m.core, m.op, n⟩] }).after
          0 none (.queueTakeGrant ctx qid fill)
    else
      let sum := v.toNat + m.inc.toNat
      let s := if q.cap < sum ∧ m.inc ≠ 0 then
          set (BitVec.ofNat 64 q.cap) (s.onQueue ctx qid fun q => { q with ovrn := min (q.ovrn + 1) (2 ^ 32 - 1) })
        else set (BitVec.ofNat 64 sum) s
      let s := if m.inc = 0 then s else s.after 0 none (.queueTakeGrant ctx qid fill)
      if m.quiet then s else s.answerValue m.core m.op 0 v

/-- QUEUE_TAKE_GRANT: the oldest take, once the counter holds its n; its promise is the time of the grant (R370). -/
def execQueueTakeGrant (ctx qid : Nat) (fill : Bool) (s : State) : Result :=
  .next (match s.queue? ctx qid with
    | none => s
    | some q => match (if fill then q.fillTakes else q.freeTakes) with
      | [] => s
      | t :: rest =>
        let v := if fill then q.fill else q.free
        if v.toNat < t.n then s
        else
          let s := s.onQueue ctx qid fun q =>
            if fill then { q with fill := v - BitVec.ofNat 64 t.n, fillTakes := rest } else { q with free := v - BitVec.ofNat 64 t.n, freeTakes := rest }
          (s.answerValue t.core t.op 0 v).after 0 none (.queueTakeGrant ctx qid fill))

/-- The triggers that a counter has reached fire, in ascending TID (R188, R294). -/
def State.fireTriggers (s : State) (k bay id : Nat) : State :=
  match s.kernel? k with
  | none => s
  | some kr =>
    let v := s.counter k bay id
    let reached (t : Trigger) : Bool := t.cid == id && decide (t.thr.toNat ≤ v.toNat) && !t.due
    let mine := kr.cores.filter fun r => bayOf r == bay
    let due := mine.flatMap fun r => ((s.coreAt r).triggers.filter reached).map fun t => (t.tid, r)
    let s := mine.foldl (fun s r => if (s.coreAt r).triggers.any reached then
        s.onCore r fun c => { c with triggers := c.triggers.map fun t => if reached t then { t with due := true } else t } else s) s
    ((List.range 256).flatMap fun t => due.filter fun d => d.1 == t).foldl (fun s d => s.after 0 (some d.2) (.triggerFire d.2 d.1)) s

/-- A CNTINC or a CNTRD that is turned away, in the order of its route: colour 0 to its bay (R241, R297). [DESIGN CHOICE: log 69] -/
def State.ctrAccess (s : State) (m : CtrMsg) : Access :=
  let far : Bool := decide (1536 ≤ m.core)
  { key := ⟨m.bay, 0, 0⟩, node := s.node.toNat, org := ⟨if far then (m.core - 1536) / 1536 else s.node.toNat, 0, 0, m.core % 1536, m.op⟩,
    opc := 0x63, fi := 0, opened := false, off := 0, len := 0, aop := 0, dty := 0, rce := false, rcnt := m.id, clr := 0, cmpv := 0, step := 0,
    data := [], tagOk := true, agent := false, after := m.after, part := 0, coll := none, ctr := some m }

/-- An increment or a read at its counter: a queue counter by R370; a counter of a pre-empted kernel in its backlog ring, or turned away;
any other at once (R294, R296, R297). -/
def State.increment (s : State) (m : CtrMsg) : State :=
  match s.queueOf m.kernel m.id with
  | some (ctx, qid, fill) => s.queueMsg m ctx qid fill
  | none => match s.kernel? m.kernel with
    | none => s.answerValue m.core m.op 2 0
    | some k =>
      if s.kernelAway k then match s.toBacklog k.ctx k.seq m.bay (.counterIncrement m) with
        | some s => s
        | none => if m.quiet then s.after 4096 none (.counterIncrement m) else s.turnAway (s.ctrAccess m)
      else
        let v := s.counter m.kernel m.bay m.id
        let s := if m.inc = 0 then s else (s.setCounter m.kernel m.bay m.id (v + m.inc)).fireTriggers m.kernel m.bay m.id
        if m.quiet then s else s.answerValue m.core m.op 0 (v + m.inc)

/-- COUNTER_INCREMENT: once the stores it releases are visible (R269), and behind what of its route was turned away (R297). -/
def execCounterIncrement (m : CtrMsg) (s : State) : Result :=
  .next (
    if s.owes m.core m.after then s.after 1 none (.counterIncrement m)
    else match (if m.quiet then none else s.awayUntil (s.ctrAccess m)) with
      | some t => s.awayAt t (s.ctrAccess m)
      | none => s.increment m)

/-- TARGET_AWAY_RETRY: the access, or the increment, sets out again in the order of its route (R241, R297). -/
def execTargetAwayRetry (a : Access) (s : State) : Result :=
  .next (if a.node ≠ s.node.toNat then s.sendAccess a
    else
      let go : State := match a.ctr with
        | some m => s.increment m
        | none => (s.atPort a).settleWindow a.key
      match s.awayUntil a with
      | some t => if s.now < t then s.awayAt t a else go
      | none => go)

/-- The local checks of a window operation (R181, R197): the window, its rank, and membership; true where it is refused. -/
def State.localRefusal (s : State) (opc d : Nat) : Bool :=
  let win := if opc = 0x80 then field 775 768 d else field 7 0 d
  match s.ownWindow win with
  | none => true
  | some w => !w.live || (if opc = 0x80 then decide (w.count < field 844 832 d) else !w.str && decide (w.count ≤ field 20 8 d))

/-- TRIGGER_FIRE: the entry is freed and its operation runs with its pool side at OBUF; it has a handle and no token, and a put's
source is read at once (R188). An increment that follows the one which fired it changes nothing (R294). Of the arming core's two engines it
counts as an operation of C0. [DESIGN CHOICE: log 164] -/
def execTriggerFire (core tid : Nat) (s : State) : Result :=
  .next (
    let back := s.core.ref
    let s := s.focus core
    match s.core.triggers.find? fun t => t.tid == tid with
    | none => s.focus back
    | some t =>
      if !t.due && decide ((s.counter s.core.kernel (bayOf core) t.cid).toNat < t.thr.toNat) then s.focus back
      else
        let d := t.desc.toNat
        let h := field 31 27 d
        let s := s.mapCore fun c => { c with triggers := c.triggers.filter fun u => u.tid != tid }
        if s.localRefusal t.opc d then
          (s.mapCore fun c => c.finishRemote t.op 6).wake.focus back
        else
          let (step, s) := s.stepSeen
          let tag := s.tagOf (field 7 0 d)
          let id := s.core.nextOp
          let data := if t.opc = 0x42 then [] else s.core.poolBytes t.obuf (field 151 128 d)
          let f : CForm := ⟨.c0, 0, 0, 0, 0, 0, 0, 0⟩
          let as := s.accessesOf id t.opc d step tag.1 tag.2 []
          let o : COp := {
            id := id, opc := t.opc, f := f, x := 0, y := 0, href := 0, area := BitVec.ofNat 64 t.obuf,
            desc := BitVec.ofNat 1024 d, desc2 := 0, step := step, fi := tag.1, opened := tag.2, waits := [],
            stage := if t.opc = 0x42 then .moving else .localDone, accAt := s.now, promise := some s.now, status := 0,
            outward := t.opc != 0x42, released := true, drained := false, hnd := some h, staged := data, addr := 0, phys := [],
            routes := s.routesOf t.opc d, banks := [], covers := ({ s.core with first := id } : Core).covers t.opc f d, err := none, logged := false,
            parts := 0, replies := [], faulted := [], refused := [], accs := as, relAt := s.now, targets := s.targetsOf t.opc d, fired := true }
          let s := s.mapCore fun c =>
            let c := c.onHandle t.op fun h => { h with owner := id, st := if t.opc = 0x42 then h.st else .localDone }
            { c with ops := c.ops ++ [o], nextOp := id + 1 }
          (if !s.mayLeave o then s.wake
            else if t.opc = 0x42 then s.sendGet o
            else if !s.core.coversOver o && as.any fun a => a.node != s.node.toNat then s
            else s.sendPut o).focus back)

/-! ## Barriers and bay atomics (R189 to R192) -/

/-- The home core of a kernel's barrier objects in a bay (R189). -/
def Kernel.homeCore (k : Kernel) (bay : Nat) : Option Nat := k.cores.find? fun r => bayOf r == bay

/-- A barrier object's words (R189). -/
structure Barrier where
  expected : Nat
  arrived : Nat
  phase : Nat
  ovr : Bool
  uai : Bool
  deriving DecidableEq, Repr

/-- A barrier object from its 16 bytes. -/
def Barrier.ofNat (n : Nat) : Barrier := ⟨field 31 0 n, field 63 32 n, field 67 64 n, bitOf 68 n, bitOf 69 n⟩
/-- Its 16 bytes; the reserved bits are zero. -/
def Barrier.toNat (b : Barrier) : Nat := b.expected + b.arrived * 2 ^ 32 + b.phase * 2 ^ 64 + bit b.ovr * 2 ^ 68 + bit b.uai * 2 ^ 69

/-- BARINIT (R190). -/
def Barrier.init (b : Barrier) (n : Nat) : Barrier :=
  if n = 0 ∨ 2 ^ 32 ≤ n then { b with expected := 0, uai := true, arrived := 0, ovr := false }
  else { b with expected := n, uai := false, arrived := 0, ovr := false }

/-- BARARR (R190): the object and p. -/
def Barrier.arrive (b : Barrier) (c : Nat) : Barrier × Bool :=
  if b.expected < b.arrived + c then ({ b with ovr := true }, false)
  else if b.arrived + c = b.expected then ({ b with arrived := 0, phase := (b.phase + 1) % 16 }, true)
  else ({ b with arrived := b.arrived + c }, true)

/-- Whether a BARWAIT of an object waits for its phase to leave ph. -/
def COp.phaseOperand (o : COp) : Nat := o.f.sx.toNat % 16

/-- The end of an operation whose local completion and effect come together. -/
def Core.finishBoth (c : Core) (id status : Nat) : Core := (c.finishLocal id status 0).finishDrain id

/-- The object at a placed offset of a home core's pool, as it stands. -/
def State.barrierAt (s : State) (home place : Nat) : Barrier :=
  Barrier.ofNat (natOf ((List.range 16).map fun i => Sparse.get 0 (s.coreAt home).pool (place + i)))

/-- BARWAITs of a bay that their object's phase lets go: those on the objects at some places are tested again (R191). -/
def State.passBarrier (s : State) (k : Kernel) (bay home : Nat) (on : Nat → Bool) : State :=
  (k.cores.filter fun r => bayOf r == bay).foldl (fun s r =>
    ((s.coreAt r).ops.filter fun (o : COp) => o.opc == 0x72 && o.stage == .moving && o.parts == 1 && o.addr != 0 && on (o.addr - 1) &&
        (s.barrierAt home (o.addr - 1)).phase != o.phaseOperand).foldl
      (fun s o => ((s.focus r).mapCore fun c => c.finishBoth o.id 0).wake) s) s

/-- A barrier operation on its object. -/
def State.barrierOp (s : State) (k : Kernel) (home : Nat) (o : COp) : State :=
  let off := aOff o.area
  let b := Barrier.ofNat ((s.coreAt home).poolNat off 16)
  let put (b : Barrier) (s : State) : State := s.onCore home fun c => c.poolWriteRemote (cellsAt off (bytesOf 16 b.toNat))
  let done (s : State) : State := (s.mapCore fun c => c.finishBoth o.id 0).wake
  match o.opc with
  | 0x70 => (done (put (b.init o.x.toNat) s)).passBarrier k (bayOf home) home (· == o.addr - 1)
  | 0x71 =>
    let r := b.arrive (o.f.sx.toNat % 16)
    (done ((put r.1 s).mapCore fun c => c.wp (o.f.sy.toNat % 16) r.2)).passBarrier k (bayOf home) home (· == o.addr - 1)
  | _ => (if b.phase ≠ o.phaseOperand then done s
    else if o.accAt + o.y.toNat ≤ s.now then (s.mapCore fun c => c.finishBoth o.id 2).wake
    else s.mapCore fun c => c.onOp o.id fun o => { o with parts := 1 }).passBarrier k (bayOf home) home (· == o.addr - 1)

/-- BAYADD or BAYCAS on a word of the target's pool (R192). -/
def State.bayWord (s : State) (o : COp) : State :=
  let d := o.desc.toNat
  let dty := field 42 40 d
  let n := dtyBytes dty
  let off := field 23 0 d
  let x := s.core.poolNat (aOff o.area) n
  let old := (s.coreAt o.addr).poolNat off n
  let new := atomicStep (o.opc - 0x73) (field 46 43 d) dty (field 255 192 d) old x
  let s := s.onCore o.addr fun c => c.poolWriteRemote (cellsAt off (bytesOf n new))
  ((s.mapCore fun c => (c.poolWriteOf o.id (cellsAt (aOff o.area) (bytesOf n old))).finishBoth o.id 0).settle).wake

/-- BAY_ATOMIC_OP: the bay atomic unit takes one operation of a core (R189, R192). -/
def execBayAtomicOp (core op : Nat) (s : State) : Result :=
  .next (
    let back := s.core.ref
    let s := s.focus core
    (match s.core.op? op, s.mine with
      | some o, some k =>
        if o.stage ≠ CStage.moving then s
        else if o.opc = 0x73 ∨ o.opc = 0x74 then match k.homeCore (bayOf core) with
          | some h =>
            let place := (s.coreAt o.addr).place (field 23 0 o.desc.toNat)
            let on (q : Nat) : Bool := o.addr == h && place.any fun p => decide (q ≤ p) && decide (p < q + 16)
            ((s.bayWord o).passBarrier k (bayOf core) h on).focus core
          | none => s.bayWord o
        else if 0x70 ≤ o.opc ∧ o.opc ≤ 0x72 then match k.homeCore (bayOf core) with
          | some h => s.barrierOp k h o
          | none => s
        else s
      | _, _ => s).focus back)

/-- BARWAIT_TIMEOUT: the bound has passed and the phase has not changed (R191). -/
def execBarwaitTimeout (op : Nat) (s : State) : Result :=
  .next (match s.core.op? op with
    | some o =>
      if o.opc = 0x72 ∧ o.stage = CStage.moving ∧ o.parts = 1 ∧ o.accAt + o.y.toNat ≤ s.now then (s.mapCore fun c => c.finishBoth op 2).wake else s
    | none => s)

end Sys2Proof.Machine
end

