-- ==== Sys2Proof/Machine/Epochs.lean ====
section
/-! DEFINITION. The agent's side of windows (R177 to R179, R184, R185, R247 to R250) and of the trigger table (R187, R188): what each
posted request does, and when its handle completes. -/

namespace Sys2Proof.Machine

/-! ## Refusals at acceptance (R178, R179, R184) -/

/-- Whether P is a power of two up to 4,096 or a prime below 256 (R253). -/
def stripeCountOk (p : Nat) : Bool :=
  (decide (p ≤ 4096) && decide (0 < p) && p == 2 ^ Nat.log2 p) ||
    (decide (2 ≤ p) && decide (p < 256) && (List.range 16).all fun d => d < 2 || d ≥ p || p % d != 0)

/-- Whether every byte of a range has a translation and its home in a bay; the leaf's permissions are not asked (R178). -/
def Context.homedIn (x : Context) (node bay base len : Nat) : Bool :=
  let here (w : W64) (va : Nat) : Bool := match x.homeOf node w va with | some h => h.1 == node && h.2.1 == bay | none => false
  decide (base + len ≤ 2 ^ 57) && (List.range ((base + len - 1) / 2 ^ 16 + 1 - base / 2 ^ 16)).all fun i =>
    let p := (base / 2 ^ 16 + i) * 2 ^ 16
    match x.walk p with
    | .leaf w =>
      if leafStripe w = 0 then here w p
      else (List.range 256).all fun j => decide (p + 256 * j + 256 ≤ base) || decide (base + len ≤ p + 256 * j) || here w (p + 256 * j)
    | _ => false

/-- WCREATE is refused (R178). -/
def State.createRefused (s : State) (d : Nat) : Bool :=
  let bay := bayOf s.core.ref
  let win := field 7 0 d
  let base := field 255 192 d
  let len := field 191 128 d
  let pool := bitOf 20 d
  match s.mine with
  | none => true
  | some k =>
    let count := field 52 40 d
    let ord (m : Nat) : Nat := field 36 24 d + m * field 68 56 d
    let own := k.ordOf (s.globalBay bay)
    let used := s.windows.any fun w => w.key.ctx == k.ctx && w.key.win == win && (w.live || w.kernel != k.seq || w.key.bay == bay)
    let member := (List.range count).any fun m => own == some (ord m)
    let outside := (List.range count).any fun m => decide (k.ords.length ≤ ord m)
    let hbm := match s.ctx? k.ctx with
      | none => true
      | some x => !x.homedIn s.node.toNat bay base len || x.leaves.any fun l => leafYard l.word &&
            decide (l.page * 2 ^ 16 < base + len) && decide (base < l.page * 2 ^ 16 + pageBytes (leafSz l.word))
    used || !member || outside || len == 0 || decide (2 ^ 40 < len) ||
      (if pool then decide (partScratch s.core.partword * bankBytes < field 215 192 d + len) else hbm) ||
      (bitOf 21 d && (pool || base % 128 != 0 || len % 128 != 0)) || (bitOf 22 d && pool)

/-- A create, free or epoch operation is refused locally (R174, R179, R184). -/
def State.epochRefused (s : State) (opc d : Nat) : Bool :=
  if opc = 0x40 then s.createRefused d
  else match s.ownWindow (field 7 0 d) with
    | none => true
    | some w => !w.live || w.agent != s.core.ref || ((opc == 0x4A || opc == 0x4B) && decide (w.count ≤ field 20 8 d))

/-! ## Creation and freeing -/

/-- The entries of a window's members in this module. -/
def State.entriesOf (s : State) (w : Window) : List Window :=
  s.windows.filter fun v => v.key.ctx == w.key.ctx && v.key.win == w.key.win && v.kernel == w.kernel

/-- The members of a window that lie in this module. -/
def State.localMembers (s : State) (w : Window) : List Nat :=
  (List.range w.count).filter fun r => match s.memberBay w r with | some g => g / 8 == s.node.toNat | none => false

/-- An agent's operation completes remotely. -/
def State.finishAt (s : State) (core op status : Nat) : State := s.onCore core fun c => (c.finishRemote op status).finishDrain op

/-- An operation of a window's agent completes remotely, wherever that core is now. -/
def State.finishFor (s : State) (w : Window) (op status : Nat) : State :=
  s.onAgent w fun c => (c.finishRemote op status).finishDrain op

/-- What the members of a window in other modules have answered to an operation of its agents here: for each agent's operation and each
such member one reply, its place the member's rank. None where one is still to come, else whether each status is 0.
[DESIGN CHOICE: log 48] -/
def State.othersAgree (s : State) (w : Window) (ops : List (Window × Nat)) : Option Bool :=
  let others := (List.range w.count).filter fun r => !(s.localMembers w).contains r
  let got := ops.map fun e => (((s.agentCore e.1).op? e.2).map (·.replies)).getD []
  if got.all fun rs => others.all fun r => rs.any fun x => x.1 == r then some (got.all fun rs => rs.all fun x => x.2 == 0) else none

/-- A creation that every member has entered: every handle completes with 0x00, or with 0x01 where they disagree, and then no
window exists (R178, R253). [DEDUCED: log 111] -/
def State.settleCreate (s : State) (k : WinKey) : State :=
  match s.window? k with
  | none => s
  | some w =>
    let es := s.entriesOf w
    let others := s.othersAgree w (es.filterMap fun v => v.creating.map fun op => (v, op))
    if w.live || es.length < (s.localMembers w).length || others.isNone then s
    else
      let same := es.all fun v => v.unit == w.unit && v.wth == w.wth && v.str == w.str && v.first == w.first && v.count == w.count &&
        v.stride == w.stride
      let ok := same && (!w.str || stripeCountOk w.count) && others == some true
      let s := es.foldl (fun s v => match v.creating with
        | some op => s.finishFor v op (if ok then 0 else 1)
        | none => s) s
      if ok then
        { s with windows := s.windows.map fun v => if es.any fun e => e.key == v.key then { v with live := true, creating := none } else v }
      else { s with windows := s.windows.filter fun v => !es.any fun e => e.key == v.key }

/-- WCREATE posted: the bay's entry, and the creation where it is the last (R178, R243). -/
def State.postCreate (s : State) (o : COp) : State :=
  match s.mine with
  | none => s
  | some k =>
    let d := o.desc.toNat
    let own := (k.ordOf (s.globalBay (bayOf s.core.ref))).getD 0
    let rank := ((List.range (field 52 40 d)).find? fun m => field 36 24 d + m * field 68 56 d == own).getD 0
    let w : Window := {
      key := ⟨bayOf s.core.ref, k.ctx, field 7 0 d⟩, kernel := k.seq, agent := s.core.ref, node := s.node.toNat, live := false,
      base := if bitOf 20 d then field 215 192 d else field 255 192 d, len := field 191 128 d, pool := bitOf 20 d,
      unit := field 19 16 d, wth := bitOf 21 d, str := bitOf 22 d, first := field 36 24 d, count := field 52 40 d,
      stride := field 68 56 d, lockb := field 79 72 d, rank := rank, mode := .none, fi := 0, opened := false, wfences := [],
      received := [], held := [], stalled := [], exposed := none, compl := [], closing := none, holders := [], queue := [], broken := [],
      status := {}, agFi := 0, agOpen := false, sentTo := [], latch := [], started := none, taken := [], creating := some o.id,
      freeing := none, fenceOps := [] }
    { s with windows := s.windows ++ [w] }.settleCreate w.key

/-- A free that every member has issued, with nothing accepted on the window left to apply: the window ceases to exist, its leases are
written back, and what its ports still held finds no window (R179, R255). -/
def State.settleFree (s : State) (k : WinKey) : State :=
  match s.window? k with
  | none => s
  | some w =>
    let es := s.entriesOf w
    let others := s.othersAgree w (es.filterMap fun v => v.freeing.map fun op => (v, op))
    if (es.all fun v => v.freeing.isSome && !s.unapplied v) && others.isSome then
      let s := es.foldl (fun s v => match v.freeing with
        | some op => s.finishFor v op 0
        | none => s) s
      let s := es.foldl State.writeBackWindow s
      let s := { s with windows := s.windows.filter (fun v => !es.any fun e => e.key == v.key),
                        colls := s.colls.filter fun p => !es.any fun e => e.key == p.key }
      (es.flatMap (·.held)).foldl State.checkAccess s
    else s

/-! ## Epoch operations -/

/-- A fence interval, an exposure, a lock is active at a bay (R185). -/
def Window.fenceActive (w : Window) : Bool := w.opened || w.agOpen
/-- An exposure is active. -/
def Window.exposureActive (w : Window) : Bool := w.exposed.isSome
/-- A lock is held or queued. -/
def Window.lockActive (w : Window) : Bool := !w.holders.isEmpty || !w.queue.isEmpty

/-- An epoch operation of another mode, or one that closes what is not open (R185). [DEDUCED: log 46] -/
def Window.conflicts (w : Window) (opc : Nat) : Bool :=
  match opc with
  | 0x45 => w.exposureActive || w.lockActive
  | 0x46 => w.fenceActive || w.lockActive || w.exposureActive
  | 0x47 => w.fenceActive || w.lockActive || w.started.isSome
  | 0x48 => w.started.isNone || w.fenceActive || w.lockActive
  | 0x49 => w.exposed.isNone || w.closing.isSome || w.fenceActive || w.lockActive
  | 0x4A => w.fenceActive || w.exposureActive
  | 0x4B => w.fenceActive || w.exposureActive
  | _ => false

/-- The name of a core in a message to a bay of the domain: a bay of this module hears its reference. -/
def State.coreName (s : State) (bay ref : Nat) : Nat := if bay < 8 then ref else 1536 + s.node.toNat * 1536 + ref

/-- Whether window operations of this core on a window, issued before an operation and, where given, to one target, are all over. -/
def Core.accessesOver (c : Core) (id win : Nat) (tgt : Option Nat) : Bool :=
  !c.ops.any fun o => decide (o.id < id) && isAccess o.opc && field 7 0 o.desc.toNat == win &&
    (match tgt with | some t => o.targets.contains t | none => true)

/-- The lock message of an operation to its target. -/
def State.lockMsg (s : State) (w : Window) (o : COp) (mk : LockMsg → Instr) : State :=
  match s.memberBay w (field 20 8 o.desc.toNat) with
  | some g => s.toBayOf s.core.ref o.id g fun b => mk ⟨{ w.key with bay := b }, w.rank, bitOf 32 o.desc.toNat, s.coreName b s.core.ref, o.id⟩
  | none => s

/-- The release of a WFENCE that is neither refused nor in conflict: the agent's FI and OPEN change (R185, R247). -/
def State.releaseFence (s : State) (o : COp) : State :=
  let d := o.desc.toNat
  match s.ownWindow (field 7 0 d) with
  | none => s
  | some w =>
    if s.epochRefused 0x45 d ∨ w.conflicts 0x45 then s
    else
      let nf := (w.agFi + 1) % 256
      (s.onWindow w.key fun w => { w with agFi := nf, agOpen := !bitOf 33 d, sentTo := w.sentTo.filter fun e => e.2.1 != nf }).mapCore
        fun c => c.onOp o.id fun o => { o with err := some nf }

/-- What an epoch operation is posted after: earlier effects of its core that have not left (R176), and for a WFENCE the agent's earlier
accesses on the window, which its messages count (R247). -/
def Core.unsentBefore (c : Core) (o : COp) : Bool :=
  (isEpoch o.opc || o.opc == 0x65 || o.opc == 0x66) && c.leavesAfter o || o.opc == 0x45 && o.err.isSome && c.ops.any fun p => decide (p.id < o.id) && isAccess p.opc && (p.parts == 0 || !p.accs.isEmpty) &&
    field 7 0 p.desc.toNat == field 7 0 o.desc.toNat

/-- An epoch operation some of whose messages would have to cross a fenced port or link completes with 0x06 (R387). -/
def State.cutOff (s : State) (w : Window) (o : COp) (ranks : List Nat) : State :=
  if s.cutFrom w ranks then
    (s.onWindow w.key fun w => { w with fenceOps := w.fenceOps.filter fun g => g.1 != o.id }).finishAt s.core.ref o.id 6
  else s

/-- A free or an epoch operation posted (R179, R185, R247 to R250). The message of a WFENCE is at the agent's own port before any other
member can have heard of it. [DEDUCED: log 138] -/
def State.postEpoch (s : State) (o : COp) : State :=
  let d := o.desc.toNat
  match s.ownWindow (field 7 0 d) with
  | none => s.finishAt s.core.ref o.id 1
  | some w =>
    let count (n : Nat) (s : State) : State := s.mapCore fun c => c.onOp o.id fun o => { o with parts := n }
    if o.opc ≠ 0x45 ∧ w.conflicts o.opc then s.finishAt s.core.ref o.id 1
    else match o.opc with
      | 0x41 => (s.onWindow w.key fun w => { w with freeing := some o.id }).settleFree w.key
      | 0x45 =>
        match o.err with
        | none => s.finishAt s.core.ref o.id 1
        | some nf =>
          let s := s.onWindow w.key fun w => { w with fenceOps := w.fenceOps ++ [(o.id, nf)] }
          let msg (r : Nat) (key : WinKey) : WinMsg := ⟨key, w.rank, nf, w.sentIn r ((nf + 255) % 256), bitOf 33 d⟩
          let others := (List.range w.count).filter fun r => r != w.rank
          ((s.wfenceIn (msg w.rank w.key)).toMembers w others fun r key => .wfenceArrival (msg r key)).cutOff w o others
      | 0x46 =>
        let g := epochGroup d
        let s := count g.count (s.onWindow w.key fun w => { w with exposed := some g, compl := [], closing := none, mode := .postStart })
        if g.count = 0 then s.finishAt s.core.ref o.id 0
        else (s.toMembers w g.ranks fun _ key => .postArrival ⟨key, w.rank, s.coreName key.bay s.core.ref, o.id, false⟩).cutOff w o g.ranks
      | 0x47 => s.onWindow w.key fun w => { w with started := some (epochGroup d), taken := [] }.takePosts
      | 0x49 => (s.onWindow w.key fun w => { w with closing := some o.id }).closeExposure w.key
      | 0x4A => s.lockMsg w o .lockRequestArrival
      | _ => s

/-- CTRIG posted: the entry is armed and its handle pending, or the table entry was armed already (R188). -/
def State.postTrigger (s : State) (o : COp) : State × Nat :=
  let d := o.desc.toNat
  let tid := field 23 16 d
  if s.core.triggers.any fun t => t.tid == tid then (s, 2)
  else
    let h := field 31 27 o.desc2.toNat
    let thr : W64 := BitVec.ofNat 64 (field 255 192 d)
    let due := decide (thr.toNat ≤ (s.counter s.core.kernel (bayOf s.core.ref) (field 9 0 d)).toNat)
    let t : Trigger := ⟨tid, thr, field 9 0 d, field 31 24 d, field 183 160 d, o.desc2, o.id, due⟩
    let s := s.mapCore fun c => { c.nameHandle s.now h o.id with triggers := c.triggers ++ [t] }
    if !due then (s, 0)
    else (s.after 0 (some s.core.ref) (.triggerFire s.core.ref tid), 0)

/-- CTDIS: the entry is freed and its handle is idle again (R188). -/
def Core.disarm (c : Core) (tid : Nat) : Core :=
  match c.triggers.find? fun t => t.tid == tid && !t.due with
  | none => c
  | some t =>
    let h := field 31 27 t.desc.toNat
    { c.wc h { c.rc h with st := .idle, status := 0 } with triggers := c.triggers.filter fun u => u.tid != tid }

/-- What a posted epoch request still waits for, tried again (R185): WFENCE for every member's message and this agent's own
accesses, WSTART for its posts, WCMPL for the epoch's accesses and then its notices, WWAIT for its notices, WUNLK for the accesses to its
target, WFREE. A member that has gone on to a later interval had every member's message for the earlier ones. -/
def State.advanceEpoch (s : State) (o : COp) : State :=
  let d := o.desc.toNat
  match s.ownWindow (field 7 0 d) with
  | none => s.finishAt s.core.ref o.id 1
  | some w =>
    match o.opc with
    | 0x41 => s.settleFree w.key
    | 0x45 => match w.fenceOps.find? fun f => f.1 == o.id with
      | none => s
      | some f =>
        let heard := decide ((w.fi + 256 - f.2) % 256 < 128) || (List.range w.count).all fun r => w.wfences.any fun m => m.rank == r && m.fi == f.2
        if heard && s.core.accessesOver o.id (field 7 0 d) none then
          (s.onWindow w.key fun w => { w with fenceOps := w.fenceOps.filter fun g => g.1 != o.id }).finishAt s.core.ref o.id 0
        else s
    | 0x47 => match w.started with
      | some g => if g.ranks.all fun r => w.taken.contains r then s.finishAt s.core.ref o.id 0 else s
      | none => s.finishAt s.core.ref o.id 0
    | 0x48 => match w.started with
      | none => s
      | some g =>
        if o.parts ≠ 0 ∨ !s.core.accessesOver o.id (field 7 0 d) none then s
        else
          let s := (s.onWindow w.key fun w => { w with started := none, taken := [] }).mapCore fun c =>
            c.onOp o.id fun o => { o with parts := max g.count 1 }
          if g.count = 0 then s.finishAt s.core.ref o.id 0
          else
            (s.toMembers w g.ranks fun _ key => .completionNoticeArrival ⟨key, w.rank, s.coreName key.bay s.core.ref, o.id, false⟩).cutOff w o g.ranks
    | 0x49 => s.closeExposure w.key
    | 0x4B =>
      if o.parts ≠ 0 ∨ !s.core.accessesOver o.id (field 7 0 d) (some (field 20 8 d)) then s
      else (s.mapCore fun c => c.onOp o.id fun o => { o with parts := 1 }).lockMsg w o .unlockArrival
    | _ => s

end Sys2Proof.Machine
end

