-- ==== Sys2Proof/Machine/ScalarFp.lean ====
section
/-! DEFINITION. Scalar binary32 of the S slot (R78): operands in bits [31:0], results zero-extended, one rounding. -/

namespace Sys2Proof.Machine

/-- The binary32 value in the low half of a register. -/
def f32Of (x : W64) : Val := shF32.decodeIeee (x.toNat % 2 ^ 32)

/-- An exact result rounded to binary32 as a register value. -/
def f32Reg (rz : Bool) (r : Val × Bool) : W64 × Flags :=
  let (c, f) := shF32.round rz r
  (BitVec.ofNat 64 c, f)

/-- FN[0]: 1 toward zero (R55). -/
def fnRz (f : RForm) : Bool := bitOf 0 f.fn.toNat

/-- FADD. -/
def execFadd (f : RForm) (s : State) : Result := scalarR f 3 (fun x y => f32Reg (fnRz f) ((f32Of x).add (f32Of y))) s
/-- FMUL. -/
def execFmul (f : RForm) (s : State) : Result := scalarR f 3 (fun x y => f32Reg (fnRz f) ((f32Of x).mul (f32Of y))) s
/-- FFMA: the old destination is the addend. -/
def execFfma (f : RForm) (s : State) : Result :=
  scalarR f 3 (fun x y => f32Reg (fnRz f) ((f32Of x).fma (f32Of y) (f32Of (s.core.rs f.sd.toNat)))) s
/-- FMIN. -/
def execFmin (f : RForm) (s : State) : Result := scalarR f 3 (fun x y => f32Reg false ((f32Of x).min2 (f32Of y))) s
/-- FMAX. -/
def execFmax (f : RForm) (s : State) : Result := scalarR f 3 (fun x y => f32Reg false ((f32Of x).max2 (f32Of y))) s

/-- A float relation by number: 0 eq, 1 ne, 2 lt, 3 le, 4 unordered; with its NV: an ordered one for any NaN, another only for a
signalling one (R78). -/
def floatRel (fn : Nat) (x y : Val) : Bool × Bool :=
  let un := x.isNan || y.isNan
  let sig := x.signalling || y.signalling
  match fn with
  | 0 => (x.eqv y, sig)
  | 1 => (!x.eqv y, sig)
  | 2 => (x.lt y, un)
  | 3 => (x.lt y || x.eqv y, un)
  | _ => (un, sig)

/-- FCMP. -/
def execFcmp (f : RForm) (s : State) : Result :=
  guarded (s.core.rp f.pg.toNat) s fun s => s.mapCore fun c =>
    let r := floatRel f.fn.toNat (f32Of (c.rs f.sa.toNat)) (f32Of (c.rs f.sb.toNat))
    c.later .s 1 [.p f.sd.toNat r.1] (Flags.nvIf r.2)

/-- CVTIF: FN[0] signed, FN[1] toward zero. -/
def execCvtif (f : RForm) (s : State) : Result :=
  scalarR f 3 (fun x _ =>
    f32Reg (bitOf 1 f.fn.toNat) (Val.ofInt (if bitOf 0 f.fn.toNat then x.toInt else (x.toNat : Int)), false)) s

/-- A float rounded to an integer of a range: a NaN gives 0 and a value beyond the range its nearest bound, both with NV; an inexact
one in range sets NX (R78, R111). -/
def toInteger (rz : Bool) (lo hi : Int) : Val → Int × Flags
  | .nan _ => (0, Flags.invalid)
  | .inf neg => (if neg then lo else hi, Flags.invalid)
  | .fin neg m e =>
    let (r, nx) := roundInt rz neg m e
    if r < lo then (lo, Flags.invalid) else if hi < r then (hi, Flags.invalid) else (r, { nx := nx })

/-- CVTFI. [DEDUCED: log 23] -/
def execCvtfi (f : RForm) (s : State) : Result :=
  scalarR f 3 (fun x _ =>
    let sg := bitOf 0 f.fn.toNat
    let r := toInteger (bitOf 1 f.fn.toNat) (if sg then -2 ^ 63 else 0) (if sg then 2 ^ 63 - 1 else 2 ^ 64 - 1) (f32Of x)
    (BitVec.ofInt 64 r.1, r.2)) s

end Sys2Proof.Machine
end

