-- ==== Sys2Proof/Machine/Vector.lean ====
section
/-! DEFINITION. Vector arithmetic, logic, compares, predicates, functions, permutes, reductions, weathering and accumulator access
of the VA and VB slots (R98 to R110, R118 to R124). -/

namespace Sys2Proof.Machine

/-! ## Templates -/

/-- A v result, one lane at a time over some lanes, that lands after `lat` cc with the flags of those lanes (R98, R100, R101). -/
def laneResult (f : VForm) (lat : Nat) (lanes : Core → List Nat) (g : Core → Nat → W32 × Flags) (s : State) : Result :=
  .next (s.mapCore fun c =>
    let rs := (lanes c).map fun l => (l, g c l)
    c.later (vslot f.unit) lat [.v f.vd.toNat (rs.map fun r => (r.1, r.2.1))] (Flags.join (rs.map fun r => r.2.2)))

/-- A v result over the acting lanes. -/
def perLane (f : VForm) (lat : Nat) (g : Core → Nat → W32 × Flags) (s : State) : Result :=
  laneResult f lat (fun c => actingLanes c f) g s

/-- The floating format of a type code, for f32, bf16 and f16 (R99). -/
def floatShape (ty : Nat) : Shape := if ty = 0 then shF32 else if ty = 3 then shBf16 else shF16

/-- Whether a type code is a float type other than fm. -/
def isFloat (ty : Nat) : Bool := ty == 0 || ty == 3 || ty == 4

/-- Whether a type's elements are signed integers. -/
def isSigned (ty : Nat) : Bool := ty == 1 || ty == 5 || ty == 6

/-- An integer element's value. -/
def elemInt (ty x : Nat) : Int := if isSigned ty then signedOf (elemWidth ty) x else (x % 2 ^ elemWidth ty : Nat)

/-- An exact integer result in a type: modulo 2^32 for i32 and n32, saturated for i16 and i8 (R104). -/
def intResult (ty : Nat) (r : Int) : Nat × Flags := if ty < 3 then (wrapNat 32 r, {}) else satSigned (elemWidth ty) r

/-- A binary operation on elements of a type: by exact float arithmetic and one rounding, or by exact integers. -/
def elemOp2 (ty : Nat) (fop : Val → Val → Val × Bool) (iop : Int → Int → Int) (x y : Nat) : Nat × Flags :=
  if isFloat ty then
    let sh := floatShape ty
    sh.round false (fop (sh.decodeIeee x) (sh.decodeIeee y))
  else intResult ty (iop (elemInt ty x) (elemInt ty y))

/-- A binary operation on every element of a lane. -/
def lane2 (ty : Nat) (op : Nat → Nat → Nat × Flags) (x y : W32) : W32 × Flags :=
  mapElems (elemWidth ty) (32 / elemWidth ty) fun i => op (elemOf (elemWidth ty) x i) (elemOf (elemWidth ty) y i)

/-- A unary operation on every element of a lane. -/
def lane1 (ty : Nat) (op : Nat → Nat × Flags) (x : W32) : W32 × Flags :=
  mapElems (elemWidth ty) (32 / elemWidth ty) fun i => op (elemOf (elemWidth ty) x i)

/-- The latency of arithmetic: 4 on floats, 2 on integers (R100). -/
def arithLat (f : VForm) : Nat := if isFloat f.ty.toNat then 4 else 2

/-- A two-source arithmetic operation. -/
def vArith (f : VForm) (fop : Val → Val → Val × Bool) (iop : Int → Int → Int) (s : State) : Result :=
  perLane f (arithLat f) (fun c l =>
    lane2 f.ty.toNat (elemOp2 f.ty.toNat fop iop) (c.rv f.va.toNat l) (c.rv f.vb.toNat l)) s

/-! ## Arithmetic (R104, R105) -/

/-- VADD. -/
def execVadd (f : VForm) (s : State) : Result := vArith f Val.add (· + ·) s
/-- VSUB. -/
def execVsub (f : VForm) (s : State) : Result := vArith f (fun x y => x.add y.negate) (· - ·) s
/-- VMUL. -/
def execVmul (f : VForm) (s : State) : Result := vArith f Val.mul (· * ·) s
/-- VMIN. -/
def execVmin (f : VForm) (s : State) : Result := vArith f Val.min2 min s
/-- VMAX. -/
def execVmax (f : VForm) (s : State) : Result := vArith f Val.max2 max s

/-- x × y ± d with one rounding, d the old destination. -/
def vFused (f : VForm) (sub : Bool) (s : State) : Result :=
  perLane f 4 (fun c l =>
    let ty := f.ty.toNat
    let w := elemWidth ty
    let sh := floatShape ty
    let at_ (r i : Nat) : Val := sh.decodeIeee (elemOf w (c.rv r l) i)
    mapElems w (32 / w) fun i =>
      let d := at_ f.vd.toNat i
      sh.round false ((at_ f.va.toNat i).fma (at_ f.vb.toNat i) (if sub then d.negate else d))) s

/-- VFMA. -/
def execVfma (f : VForm) (s : State) : Result := vFused f false s
/-- VFMS. -/
def execVfms (f : VForm) (s : State) : Result := vFused f true s

/-- A float element with its sign bit cleared or flipped; a NaN gives the canonical NaN and no flag (R104). -/
def signOp (ty : Nat) (flip : Bool) (x : Nat) : Nat × Flags :=
  let sh := floatShape ty
  if (sh.decode x).isNan then (sh.cnan, {})
  else
    let b := 2 ^ (elemWidth ty - 1)
    (if flip then (if x < b then x + b else x - b) else x % b, {})

/-- VABS. -/
def execVabs (f : VForm) (s : State) : Result :=
  perLane f (arithLat f) (fun c l => lane1 f.ty.toNat (fun x =>
    if isFloat f.ty.toNat then signOp f.ty.toNat false x
    else intResult f.ty.toNat (elemInt f.ty.toNat x).natAbs) (c.rv f.va.toNat l)) s

/-- VNEG. -/
def execVneg (f : VForm) (s : State) : Result :=
  perLane f (arithLat f) (fun c l => lane1 f.ty.toNat (fun x =>
    if isFloat f.ty.toNat then signOp f.ty.toNat true x
    else intResult f.ty.toNat (-elemInt f.ty.toNat x)) (c.rv f.va.toNat l)) s

/-- VMOVI: a signed 14-bit immediate in every element (R105). -/
def execVmovi (f : VForm) (s : State) : Result :=
  perLane f 2 (fun _ _ =>
    let ty := f.ty.toNat
    let v := signedOf 14 f.vb.toNat
    mapElems (elemWidth ty) (32 / elemWidth ty) fun _ =>
      if isFloat ty then (floatShape ty).encode false (Val.ofInt v) else intResult ty v) s

/-! ## Logic, shifts and counts (R106) -/

/-- A lane-wide logic operation. -/
def vLogic (f : VForm) (op : W32 → W32 → W32) (s : State) : Result :=
  perLane f 2 (fun c l => (op (c.rv f.va.toNat l) (c.rv f.vb.toNat l), {})) s

/-- VAND. -/
def execVand (f : VForm) (s : State) : Result := vLogic f (· &&& ·) s
/-- VOR. -/
def execVor (f : VForm) (s : State) : Result := vLogic f (· ||| ·) s
/-- VXOR. -/
def execVxor (f : VForm) (s : State) : Result := vLogic f (· ^^^ ·) s
/-- VNOT. -/
def execVnot (f : VForm) (s : State) : Result := perLane f 2 (fun c l => (~~~c.rv f.va.toNat l, {})) s

/-- A shift of every element by the low log2(w) bits of the same element of v[VB]. -/
def vShift (f : VForm) (op : (w x n : Nat) → Nat) (s : State) : Result :=
  perLane f 2 (fun c l => lane2 f.ty.toNat (fun x y =>
    let w := elemWidth f.ty.toNat
    (op w x (y % w), {})) (c.rv f.va.toNat l) (c.rv f.vb.toNat l)) s

/-- VSHL. -/
def execVshl (f : VForm) (s : State) : Result := vShift f (fun w x n => x * 2 ^ n % 2 ^ w) s
/-- VSHR. -/
def execVshr (f : VForm) (s : State) : Result := vShift f (fun _ x n => x / 2 ^ n) s
/-- VSRA. -/
def execVsra (f : VForm) (s : State) : Result := vShift f (fun w x n => wrapNat w (signedOf w x / 2 ^ n)) s
/-- VPOPC. -/
def execVpopc (f : VForm) (s : State) : Result :=
  perLane f 2 (fun c l => lane1 f.ty.toNat (fun x => (popBits (elemWidth f.ty.toNat) x, {})) (c.rv f.va.toNat l)) s
where
  /-- The number of set bits among the low w. -/
  popBits (w x : Nat) : Nat := ((List.range w).filter fun i => bitOf i x).length
/-- VCLZ. -/
def execVclz (f : VForm) (s : State) : Result :=
  perLane f 2 (fun c l => lane1 f.ty.toNat (fun x => (zeros (elemWidth f.ty.toNat) x, {})) (c.rv f.va.toNat l)) s
where
  /-- The number of leading zeros of a w-bit pattern. -/
  zeros (w x : Nat) : Nat := if x = 0 then w else w - 1 - Nat.log2 x

/-! ## Selects, predicates and compares (R107 to R109) -/

/-- VSEL: no lane guard; q[QG] selects in every lane of the enabled courses. -/
def execVsel (f : VForm) (s : State) : Result :=
  laneResult f 2 (fun _ => courseLanes f) (fun c l =>
    (if bitOf l (c.rq f.qg.toNat).toNat then c.rv f.va.toNat l else c.rv f.vb.toNat l, {})) s

/-- A q result written where lanes act. -/
def qResult (f : VForm) (g : Core → BitVec 128) (s : State) : Result :=
  .next (s.mapCore fun c => c.later (vslot f.unit) 2 [.q f.vd.toNat (maskOf (actingLanes c f)) (g c)])

/-- VQAND. -/
def execVqand (f : VForm) (s : State) : Result := qResult f (fun c => c.rq f.va.toNat &&& c.rq f.vb.toNat) s
/-- VQOR. -/
def execVqor (f : VForm) (s : State) : Result := qResult f (fun c => c.rq f.va.toNat ||| c.rq f.vb.toNat) s
/-- VQNOT. -/
def execVqnot (f : VForm) (s : State) : Result := qResult f (fun c => ~~~c.rq f.va.toNat) s

/-- The relations of VCMP.cc. -/
inductive VRel where
  | eq | ne | lt | le | gt | ge
  deriving DecidableEq, Repr

/-- A relation between two floats, with its NV (R107). -/
def VRel.onVal (r : VRel) (x y : Val) : Bool × Bool :=
  let un := x.isNan || y.isNan
  let sig := x.signalling || y.signalling
  match r with
  | .eq => (x.eqv y, sig)
  | .ne => (!x.eqv y, sig)
  | .lt => (x.lt y, un)
  | .le => (x.lt y || x.eqv y, un)
  | .gt => (y.lt x, un)
  | .ge => (y.lt x || x.eqv y, un)

/-- A relation between two integers. -/
def VRel.onInt (r : VRel) (x y : Int) : Bool :=
  match r with
  | .eq => x == y
  | .ne => x != y
  | .lt => decide (x < y)
  | .le => decide (x ≤ y)
  | .gt => decide (y < x)
  | .ge => decide (y ≤ x)

/-- Whether a relation holds of every element of a lane, with its NV. -/
def laneRel (ty : Nat) (r : VRel) (x y : W32) : Bool × Bool :=
  let w := elemWidth ty
  let rs := (List.range (32 / w)).map fun i =>
    if isFloat ty then r.onVal ((floatShape ty).decodeIeee (elemOf w x i)) ((floatShape ty).decodeIeee (elemOf w y i))
    else (r.onInt (elemInt ty (elemOf w x i)) (elemInt ty (elemOf w y i)), false)
  (rs.all (·.1), rs.any (·.2))

/-- VCMP.cc (R107). -/
def vCompare (f : VForm) (r : VRel) (s : State) : Result :=
  .next (s.mapCore fun c =>
    let ls := actingLanes c f
    let rs := ls.map fun l => (l, laneRel f.ty.toNat r (c.rv f.va.toNat l) (c.rv f.vb.toNat l))
    c.later (vslot f.unit) 2 [.q f.vd.toNat (maskOf ls) (maskOf ((rs.filter fun x => x.2.1).map (·.1)))]
      (Flags.nvIf (rs.any fun x => x.2.2)))

/-- VCMP_EQ. -/
def execVcmpEq (f : VForm) (s : State) : Result := vCompare f .eq s
/-- VCMP_NE. -/
def execVcmpNe (f : VForm) (s : State) : Result := vCompare f .ne s
/-- VCMP_LT. -/
def execVcmpLt (f : VForm) (s : State) : Result := vCompare f .lt s
/-- VCMP_LE. -/
def execVcmpLe (f : VForm) (s : State) : Result := vCompare f .le s
/-- VCMP_GT. -/
def execVcmpGt (f : VForm) (s : State) : Result := vCompare f .gt s
/-- VCMP_GE. -/
def execVcmpGe (f : VForm) (s : State) : Result := vCompare f .ge s

/-! ## Correctly rounded functions (R110) -/

/-- A function of binary32 by its special cases and its exact value otherwise; the middle component is NV, the last DZ. -/
def vFunction (f : VForm) (g : Val → Val × Bool × Bool) (s : State) : Result :=
  perLane f 9 (fun c l =>
    let x := shF32.decodeIeee (c.rv f.va.toNat l).toNat
    let (v, nv, dz) := g x
    let (code, fl) := shF32.encode false v
    (BitVec.ofNat 32 code, fl.or { nv := nv || x.signalling, dz := dz })) s

/-- 2^x. -/
def fnExp2 : Val → Val × Bool × Bool
  | .nan _ => (.nan false, false, false)
  | .inf false => (.inf false, false, false)
  | .inf true => (.fin false 0 0, false, false)
  | .fin neg m e => (if m = 0 then .fin false 1 0 else exp2Fin neg m e, false, false)

/-- log2 x. -/
def fnLog2 : Val → Val × Bool × Bool
  | .nan _ => (.nan false, false, false)
  | .inf false => (.inf false, false, false)
  | .inf true => (.nan false, true, false)
  | .fin neg m e => if m = 0 then (.inf true, false, true) else if neg then (.nan false, true, false) else (log2Fin m e, false, false)

/-- 1/x. -/
def fnRcp : Val → Val × Bool × Bool
  | .nan _ => (.nan false, false, false)
  | .inf neg => (.fin neg 0 0, false, false)
  | .fin neg m e => if m = 0 then (.inf neg, false, true) else (rcpFin neg m e, false, false)

/-- 1/√x. -/
def fnRsq : Val → Val × Bool × Bool
  | .nan _ => (.nan false, false, false)
  | .inf false => (.fin false 0 0, false, false)
  | .inf true => (.nan false, true, false)
  | .fin neg m e => if m = 0 then (.inf neg, false, true) else if neg then (.nan false, true, false) else (rsqFin m e, false, false)

/-- √x. -/
def fnSqrt : Val → Val × Bool × Bool
  | .nan _ => (.nan false, false, false)
  | .inf false => (.inf false, false, false)
  | .inf true => (.nan false, true, false)
  | .fin neg m e => if m = 0 then (.fin neg 0 e, false, false) else if neg then (.nan false, true, false) else (sqrtFin m e, false, false)

/-- VEXP2. -/
def execVexp2 (f : VForm) (s : State) : Result := vFunction f fnExp2 s
/-- VLOG2. -/
def execVlog2 (f : VForm) (s : State) : Result := vFunction f fnLog2 s
/-- VRCP. -/
def execVrcp (f : VForm) (s : State) : Result := vFunction f fnRcp s
/-- VRSQ. -/
def execVrsq (f : VForm) (s : State) : Result := vFunction f fnRsq s
/-- VSQRT. -/
def execVsqrt (f : VForm) (s : State) : Result := vFunction f fnSqrt s

/-! ## Moving data between lanes and courses (R118, R119) -/

/-- VBCAST. -/
def execVbcast (f : VForm) (s : State) : Result :=
  perLane f 2 (fun c l => (c.rv f.va.toNat (l / 16 * 16 + f.vb.toNat % 16), {})) s

/-- An element widened to 32 bits: floats exactly with NaNs canonical, integers sign- or zero-extended; no flag (R118). -/
def widen (ty : Nat) (sx : Bool) (x : Nat) : Nat :=
  if isFloat ty then (shF32.encode false ((floatShape ty).decode x)).1
  else if sx then wrapNat 32 (signedOf (elemWidth ty) x) else x

/-- VEXTR. -/
def execVextr (f : VForm) (s : State) : Result :=
  perLane f 2 (fun c l =>
    (BitVec.ofNat 32 (widen f.ty.toNat (bitOf 2 f.vb.toNat)
      (elemOf (elemWidth f.ty.toNat) (c.rv f.va.toNat l) (f.vb.toNat % 4))), {})) s

/-- VPERM. -/
def execVperm (f : VForm) (s : State) : Result :=
  perLane f 2 (fun c l => (c.rv f.va.toNat (l / 16 * 16 + (c.rv f.vb.toNat l).toNat % 16), {})) s

/-- VXCRS: lane j of course (k − d) mod 8. -/
def execVxcrs (f : VForm) (s : State) : Result :=
  perLane f 6 (fun c l => (c.rv f.va.toNat ((l / 16 + 8 - f.vb.toNat % 8) % 8 * 16 + l % 16), {})) s

/-! ## Reductions (R120) -/

/-- One level of the tree: adjacent pairs combined. -/
def combinePairs (op : Nat → Nat → Nat × Flags) : List (Nat × Flags) → List (Nat × Flags)
  | a :: b :: rest =>
    let r := op a.1 b.1
    (r.1, (a.2.or b.2).or r.2) :: combinePairs op rest
  | l => l

/-- The 16 contributions of a course combined over four levels. -/
def reduceTree (op : Nat → Nat → Nat × Flags) (xs : List Nat) : Nat × Flags :=
  let l0 := xs.map fun x => (x, ({} : Flags))
  match combinePairs op (combinePairs op (combinePairs op (combinePairs op l0))) with
  | r :: _ => r
  | [] => (0, {})

/-- A reduction: the identity stands for a lane whose guard bit is 0, and the result goes to every lane of each enabled course. -/
def vReduce (f : VForm) (lat : Nat) (op : Nat → Nat → Nat × Flags) (identity : Nat) (s : State) : Result :=
  laneResult f lat (fun _ => courseLanes f) (fun c l =>
    let k := l / 16 * 16
    let r := reduceTree op ((List.range 16).map fun j =>
      if bitOf (k + j) (c.rq f.qg.toNat).toNat then (c.rv f.va.toNat (k + j)).toNat else identity)
    (BitVec.ofNat 32 r.1, r.2)) s

/-- VRADD. -/
def execVradd (f : VForm) (s : State) : Result :=
  vReduce f 8 (elemOp2 f.ty.toNat Val.add (· + ·)) (if f.ty.toNat = 0 then 0x80000000 else 0) s
/-- VRMAX. -/
def execVrmax (f : VForm) (s : State) : Result :=
  vReduce f 4 (elemOp2 f.ty.toNat Val.max2 max) (if f.ty.toNat = 0 then 0xFF800000 else if f.ty.toNat = 1 then 0x80000000 else 0) s
/-- VRMIN. -/
def execVrmin (f : VForm) (s : State) : Result :=
  vReduce f 4 (elemOp2 f.ty.toNat Val.min2 min)
    (if f.ty.toNat = 0 then 0x7F800000 else if f.ty.toNat = 1 then 0x7FFFFFFF else 0xFFFFFFFF) s

/-! ## Weathering (R121, R122) -/

/-- The context of the core in focus, or one with no rate set. -/
def State.rateCtx (s : State) : Context :=
  (s.ctx? s.myCtx).getD
    { id := 0, lenc := false, menc := false, acceptU := false, key := none, step := 0, recent := [], rates := [], classes := [],
      stripes := [], leaves := [], sealed := [], faults := [], nextFault := 0, weathering := [], unmatched := [], sweeps := [], backlog := [] }

/-- VWSTMP. -/
def execVwstmp (f : VForm) (s : State) : Result :=
  let (step, s) := s.stepSeen
  perLane f 2 (fun _ _ => (BitVec.ofNat 32 (step.toNat % 2 ^ 24), {})) s

/-- VWFAC: the factor of each stamp lane, in binary32 or in both halves as bf16; stamps ahead are counted. -/
def execVwfac (f : VForm) (s : State) : Result :=
  let (step, s) := s.stepSeen
  let x := s.rateCtx
  let c := s.core
  let ahead := ((actingLanes c f).filter fun l => (ageOf step (c.rv f.va.toNat l).toNat).2).length
  let s := s.countLines s.myCtx (bayOf c.ref) ahead 0
  perLane f 9 (fun c l =>
    let (fc, fl) := x.factor (ageOf step (c.rv f.va.toNat l).toNat).1 (f.vb.toNat % 32)
    if f.ty.toNat = 0 then (BitVec.ofNat 32 fc, fl)
    else
      let (h, g) := shBf16.round false (shF32.decodeIeee fc, false)
      (BitVec.ofNat 32 (h + 2 ^ 16 * h), fl.or g)) s

/-- The merge of two values with their factors, each step rounded (R122). -/
def mergeVal (fmt x fd y fa : Nat) : Nat × Flags :=
  let p := mulF32 x fd
  let q := mulF32 y fa
  let m := addF32 p.1 q.1
  let t := toLineVal fmt m.1
  (t.1, ((p.2.or q.2).or m.2).or t.2)

/-- One merged line of 32 lanes: its lanes, its flags and its stamp-ahead events. No factor is computed for a zero-line header (R122,
R304). -/
def mergeLine (x : Context) (step : W64) (ty rate : Nat) (d a : List W32) : List W32 × Flags × Nat :=
  let fmt := if ty = 0 then 0 else 1
  let hd := (d.headD 0).toNat
  let ha := (a.headD 0).toNat
  let (gd, ahd) := ageOf step (hdrStamp hd)
  let (ga, aha) := ageOf step (hdrStamp ha)
  let factorOf (h g : Nat) : Nat × Flags := if hdrZero h then (0x3F800000, {}) else x.factor g rate
  let (fd, f1) := factorOf hd gd
  let (fa, f2) := factorOf ha ga
  let one (p q : W32) : W32 × Flags :=
    let v (z : Bool) (w : W32) (i : Nat) : Nat := if z then 0 else if fmt = 0 then w.toNat else elemOf 16 w i * 2 ^ 16
    mapElems (if fmt = 0 then 32 else 16) (if fmt = 0 then 1 else 2) fun i => mergeVal fmt (v (hdrZero hd) p i) fd (v (hdrZero ha) q i) fa
  let rs := (d.drop 1).zipWith one (a.drop 1)
  let fl := (f1.or f2).or (Flags.join (rs.map (·.2)))
  let count := (if ahd && !hdrZero hd then 1 else 0) + (if aha && !hdrZero ha then 1 else 0)
  (BitVec.ofNat 32 (mkHdr false fmt rate step.toNat) :: rs.map (·.1), fl, count)

/-- VWMRG: the line of each enabled course pair of v[VA] merged into that of v[VD]. -/
def execVwmrg (f : VForm) (s : State) : Result :=
  let (step, s) := s.stepSeen
  let x := s.rateCtx
  let c := s.core
  let pairs := (List.range 4).filter fun j => bitOf (2 * j) f.cm.toNat
  let lanesOf (r j : Nat) : List W32 := (List.range 32).map fun i => c.rv r (32 * j + i)
  let rs := pairs.map fun j => (j, mergeLine x step f.ty.toNat (f.vb.toNat % 32) (lanesOf f.vd.toNat j) (lanesOf f.va.toNat j))
  let s := s.countLines s.myCtx (bayOf c.ref) ((rs.map fun r => r.2.2.2).sum) 0
  let out := (rs.map fun r => r.2.1.mapIdx fun i w => (32 * r.1 + i, w)).flatten
  .next (s.mapCore fun c => c.later (vslot f.unit) 12 [.v f.vd.toNat out] (Flags.join (rs.map fun r => r.2.2.1)))

/-! ## Accumulator access (R123) -/

/-- VZRD: lane l of the row pair is element 128p + l. -/
def execVzrd (f : VForm) (s : State) : Result :=
  perLane f 5 (fun c l => (c.rz (f.va.toNat % 256) (f.vb.toNat % 32 * 128 + l), {})) s

/-- VZWR: the tile is written, and busy, for 3 cc. -/
def execVzwr (f : VForm) (s : State) : Result :=
  .next (s.mapCore fun c =>
    c.later (vslot f.unit) 3 [.z (f.va.toNat % 256) ((actingLanes c f).map fun l =>
      (f.vb.toNat % 32 * 128 + l, c.rv f.vd.toNat l))])

end Sys2Proof.Machine
end

