-- ==== Sys2Proof/Machine/VectorMem.lean ====
section
/-! DEFINITION. Conversions and pool movement of the vector slots (R111 to R116). -/

namespace Sys2Proof.Machine

/-! ## Conversions -/

/-- One side of a conversion: its type code and, for fm, its shape. -/
structure Side where
  ty : Nat
  sh : Shape
  deriving DecidableEq, Repr

/-- Bits of an element of a side. -/
def Side.width (d : Side) : Nat := if d.ty = 7 then d.sh.container else elemWidth d.ty

/-- What a source element is: a float or an integer. -/
def Side.read (d : Side) (x : Nat) : Val ⊕ Int :=
  if d.ty = 7 then .inl (d.sh.decode x)
  else if isFloat d.ty then .inl ((floatShape d.ty).decodeIeee x)
  else .inr (elemInt d.ty x)

/-- The bounds of an integer type (R222). -/
def intBounds (ty : Nat) : Int × Int := if ty = 2 then (0, 2 ^ 32 - 1) else (-2 ^ (elemWidth ty - 1), 2 ^ (elemWidth ty - 1) - 1)

/-- R111: one value converted. -/
def convert (src dst : Side) (rz : Bool) (x : Nat) : Nat × Flags :=
  match src.read x with
  | .inl v =>
    if dst.ty = 7 then dst.sh.encode rz v
    else if isFloat dst.ty then (floatShape dst.ty).encode rz v
    else
      let b := intBounds dst.ty
      let r := toInteger rz b.1 b.2 v
      (wrapNat (elemWidth dst.ty) r.1, r.2)
  | .inr n =>
    if dst.ty = 7 then dst.sh.encode rz (Val.ofInt n)
    else if isFloat dst.ty then (floatShape dst.ty).encode rz (Val.ofInt n)
    else
      let b := intBounds dst.ty
      let r := satInt b.1 b.2 n
      (wrapNat (elemWidth dst.ty) r.1, { sat := r.2 })

/-- The source side of a conversion: TY, with the shape of fm[VB[11:8]]. -/
def srcSide (c : Core) (f : VForm) : Side := ⟨f.ty.toNat, Shape.ofWord (c.rfm (field 11 8 f.vb.toNat))⟩
/-- The destination side: VB[2:0], with the shape of fm[VB[7:4]]. -/
def dstSide (c : Core) (f : VForm) : Side := ⟨field 2 0 f.vb.toNat, Shape.ofWord (c.rfm (field 7 4 f.vb.toNat))⟩
/-- VB[3]: 1 toward zero. -/
def convRz (f : VForm) : Bool := bitOf 3 f.vb.toNat

/-- VCVT: element i into element i of the same lane (R112). -/
def execVcvt (f : VForm) (s : State) : Result :=
  perLane f 4 (fun c l =>
    let w := (srcSide c f).width
    mapElems w (32 / w) fun i => convert (srcSide c f) (dstSide c f) (convRz f) (elemOf w (c.rv f.va.toNat l) i)) s

/-- VPACK and VUNPK: element m of a course from element m of the same course, zero beyond the source's last (R113). -/
def vRepack (f : VForm) (s : State) : Result :=
  perLane f 4 (fun c l =>
    let ws := (srcSide c f).width
    let wd := (dstSide c f).width
    let es := 32 / ws
    let ed := 32 / wd
    mapElems wd ed fun i =>
      let m := l % 16 * ed + i
      if m < 16 * es then
        convert (srcSide c f) (dstSide c f) (convRz f) (elemOf ws (c.rv f.va.toNat (l / 16 * 16 + m / es)) (m % es))
      else (0, {})) s

/-- VPACK. -/
def execVpack (f : VForm) (s : State) : Result := vRepack f s
/-- VUNPK. -/
def execVunpk (f : VForm) (s : State) : Result := vRepack f s

/-! ## Pool movement and masks (R114 to R116) -/

/-- base: (OFF + 64 × signed displacement) mod 2^24. -/
def vBase (c : Core) (f : VForm) : Nat :=
  (((aOff (c.ra f.va.toNat) : Nat) : Int) + 64 * signedOf 14 f.vb.toNat |>.emod (2 ^ 24)).toNat

/-- The offset of an indexed lane: (OFF + 4 × index) mod 2^24 (R115). -/
def vIndexed (c : Core) (f : VForm) (l : Nat) : Nat := (aOff (c.ra f.va.toNat) + 4 * (c.rv f.vb.toNat l).toNat) % 2 ^ 24

/-- VLD. -/
def execVld (f : VForm) (s : State) : Result :=
  perLane f 5 (fun c l => (BitVec.ofNat 32 (c.slotNat (vBase c f + 4 * l) 4), {})) s

/-- A store of some lanes' words at offsets, in ascending lane order, joined to the bundle's stores (R81). -/
def laneStore (f : VForm) (off : Core → Nat → Nat) (s : State) : Result :=
  .next (s.mapCore fun c => { c with stores := c.stores ++
    ((actingLanes c f).map fun l => cellsAt (off c l) (bytesOf 4 (c.rv f.vd.toNat l).toNat)).flatten })

/-- VST. -/
def execVst (f : VForm) (s : State) : Result := laneStore f (fun c l => vBase c f + 4 * l) s

/-- VLDX. -/
def execVldx (f : VForm) (s : State) : Result :=
  perLane f 8 (fun c l => (BitVec.ofNat 32 (c.slotNat (vIndexed c f l) 4), {})) s

/-- VSTX: where two lanes name one address, the higher lane's word stands. -/
def execVstx (f : VForm) (s : State) : Result := laneStore f (fun c l => vIndexed c f l) s

/-- VSTMB: both bytes of every enabled course; a lane whose guard bit is 0 gives a 0 bit. -/
def execVstmb (f : VForm) (s : State) : Result :=
  .next (s.mapCore fun c =>
    let m := (c.rq f.vd.toNat).toNat &&& (c.rq f.qg.toNat).toNat
    { c with stores := c.stores ++
      (((List.range 8).filter fun k => bitOf k f.cm.toNat).map fun k =>
        cellsAt (vBase c f + 2 * k) (bytesOf 2 (field (16 * k + 15) (16 * k) m))).flatten })

/-- VLDMB. -/
def execVldmb (f : VForm) (s : State) : Result :=
  .next (s.mapCore fun c =>
    c.later (vslot f.unit) 5 [.q f.vd.toNat (maskOf (actingLanes c f)) (BitVec.ofNat 128 (c.slotNat (vBase c f) 16))])

end Sys2Proof.Machine
end

