-- ==== Sys2Proof/Machine/Matrix.lean ====
section
/-! DEFINITION. The matrix engine (R125 to R145): the format-table row and its checks, the CSR gather unit, what each operation
computes, its issue, its start and the landing of its result. -/

namespace Sys2Proof.Machine

/-! ## The format-table row (R126) -/

/-- ATY. -/
def rowAty (r : W64) : Nat := field 2 0 r.toNat
/-- AFM. -/
def rowAfm (r : W64) : Nat := field 6 3 r.toNat
/-- BTY. -/
def rowBty (r : W64) : Nat := field 9 7 r.toNat
/-- BFM. -/
def rowBfm (r : W64) : Nat := field 13 10 r.toNat
/-- ASC. -/
def rowAsc (r : W64) : Bool := bitOf 14 r.toNat
/-- BSC. -/
def rowBsc (r : W64) : Bool := bitOf 15 r.toNat
/-- M. -/
def rowM (r : W64) : Nat := field 22 16 r.toNat
/-- N. -/
def rowN (r : W64) : Nat := field 29 23 r.toNat
/-- K. -/
def rowK (r : W64) : Nat := field 36 30 r.toNat
/-- OTY. -/
def rowOty (r : W64) : Nat := field 39 37 r.toNat
/-- OFM. -/
def rowOfm (r : W64) : Nat := field 43 40 r.toNat
/-- ORZ. -/
def rowOrz (r : W64) : Bool := bitOf 44 r.toNat
/-- PA. -/
def rowPa (r : W64) : Nat := field 52 45 r.toNat
/-- PB. -/
def rowPb (r : W64) : Nat := field 60 53 r.toNat

/-- The container width of a type code with its shape (R127); a code that is not allowed is taken as 16 bits wide where another check
looks at it (R129). [DESIGN CHOICE: log 120] -/
def contWidth (ty : Nat) (sh : W32) : Nat := if ty = 0 then 32 else if ty = 7 then (Shape.ofWord sh).container else 16

/-- A pitch in bytes, the natural one where the field is 0 (R127). -/
def pitchOf (field natural : Nat) : Nat := if field = 0 then natural else 32 * field

/-- The checks of a row by operation, as (field position, broken) (R129). [DEDUCED: log 30] -/
def rowChecks (kind : MKind) (r : W64) (shA shB : W32) : List (Nat × Bool) :=
  let common := [(61, field 63 61 r.toNat != 0), (16, decide (64 < rowM r)), (23, decide (64 < rowN r)), (30, decide (64 < rowK r))]
  let bf (ty : Nat) : Bool := ty == 3 || ty == 4 || ty == 7
  let aty := (0, !bf (rowAty r))
  let bty := (7, !bf (rowBty r))
  let afm := (3, rowAfm r != 0 && rowAty r != 7)
  let bfm := (10, rowBfm r != 0 && rowBty r != 7)
  match kind with
  | .mma | .mmai | .mmas => common ++ [aty, bty, afm, bfm, (0, contWidth (rowAty r) shA != contWidth (rowBty r) shB)]
  | .mgath => common ++ [bty, bfm]
  | .mzst => common ++ [(37, !(bf (rowOty r) || rowOty r == 0)), (40, rowOfm r != 0 && rowOty r != 7)]
  | .mtrn => common ++ [(0, !(bf (rowAty r) || rowAty r == 0)), afm]
  | .mzld => common
  | .mzero => []

/-- The lowest offending position of a list of checks. -/
def lowestBroken (l : List (Nat × Bool)) : Option Nat :=
  l.foldl (fun m x => if !x.2 then m else match m with | none => some x.1 | some p => some (min p x.1)) none

/-- The lowest set bit among the reserved bits of a CSR descriptor (R138). -/
def csrReserved (d : BitVec 256) : Option Nat :=
  (List.range 256).find? fun i => bitOf i d.toNat &&
    (decide (152 ≤ i) || (decide (112 ≤ i) && decide (i < 128)) || (decide (88 ≤ i) && decide (i < 96)) ||
      (decide (56 ≤ i) && decide (i < 64)) || (decide (24 ≤ i) && decide (i < 32)))

/-! ## Elements -/

/-- The container at element `i` of a run of containers of width w that begins at an offset; 4-bit containers low nibble first. -/
def Core.container (c : Core) (off w i : Nat) : Nat :=
  if w = 4 then (c.poolByte (off + i / 2)).toNat / 16 ^ (i % 2) % 16 else c.poolNat (off + i * (w / 8)) (w / 8)

/-- The writes that put a container of width w at element i of a run; a nibble keeps its neighbour as `c` holds it. -/
def Core.putContainer (c : Core) (off w i x : Nat) : List (Nat × Byte) :=
  if w = 4 then
    let o := off + i / 2
    let old := (c.poolByte o).toNat
    [(o, BitVec.ofNat 8 (if i % 2 = 0 then old / 16 * 16 + x % 16 else x % 16 * 16 + old % 16))]
  else cellsAt (off + i * (w / 8)) (bytesOf (w / 8) x)

/-- A matrix element's value by type code and shape (R136). -/
def matVal (ty : Nat) (sh : W32) (x : Nat) : Val :=
  if ty = 7 then (Shape.ofWord sh).decode x else (floatShape ty).decodeIeee x

/-- A block scale (R131). -/
def scaleVal (w : Nat) : Val :=
  let se := field 15 8 w
  if se = 0 then .fin false 0 0 else if se = 255 then .nan false else .fin false (256 + w % 256) ((se : Int) - 135)

/-! ## MMA (R136, R137) -/

/-- One group of 16: the exact scaled sum added to the accumulator and rounded once. Where NaNs and infinities meet, NV is that of a sum in
ascending order. [DESIGN CHOICE: log 122] -/
def mmaGroup (acc : Nat) (terms : List (Val × Val)) (sa sb : Val) : Nat × Flags :=
  let start : Val × Bool := (.fin true 0 0, false)
  let s := terms.foldl (fun (a : Val × Bool) t =>
    let p := t.1.mul t.2
    let r := a.1.add p.1
    (r.1, a.2 || p.2 || r.2)) start
  let x := s.1.mul sa
  let y := x.1.mul sb
  let r := (shF32.decodeIeee acc).add y.1
  shF32.round false (r.1, s.2 || x.2 || y.2 || r.2)

/-- One element: the groups in ascending k. -/
def mmaElem (acc kdim : Nat) (a b : Nat → Val) (sa sb : Val) : Nat × Flags :=
  (List.range (ceilDiv kdim 16)).foldl (fun (st : Nat × Flags) g =>
    let n := min 16 (kdim - 16 * g)
    let r := mmaGroup st.1 ((List.range n).map fun i => (a (16 * g + i), b (16 * g + i))) sa sb
    (r.1, st.2.or r.2)) (acc, {})

/-! ## The CSR gather unit (R138, R139) -/

/-- ROWPTR. -/
def csrRowptr (d : BitVec 256) : Nat := field 23 0 d.toNat
/-- COLIDX. -/
def csrColidx (d : BitVec 256) : Nat := field 55 32 d.toNat
/-- VALUES. -/
def csrValues (d : BitVec 256) : Nat := field 87 64 d.toNat
/-- CBASE. -/
def csrCbase (d : BitVec 256) : Nat := field 111 96 d.toNat
/-- SCALES. -/
def csrScales (d : BitVec 256) : Nat := field 151 128 d.toNat

/-- The entries of a row: its first, and how many count. -/
def csrRow (c : Core) (d : BitVec 256) (k : Nat) : Nat × Nat :=
  let lo := c.poolNat (csrRowptr d + 4 * k) 4
  let hi := c.poolNat (csrRowptr d + 4 * (k + 1)) 4
  (lo, min (hi - lo) 4096)

/-- E: the entries gathered over the rows. -/
def csrCount (c : Core) (d : BitVec 256) (kdim : Nat) : Nat := ((List.range kdim).map fun k => (csrRow c d k).2).sum

/-- The slice as (k, column, code), later entries of one place last. -/
def csrEntries (c : Core) (d : BitVec 256) (w n kdim : Nat) : List (Nat × Nat × Nat) :=
  ((List.range kdim).map fun k =>
    let (lo, len) := csrRow c d k
    (List.range len).filterMap fun i =>
      let x := (lo + i) % 2 ^ 32
      let col := c.poolNat ((csrColidx d + 2 * x) % 2 ^ 24) 2
      if csrCbase d ≤ col ∧ col - csrCbase d < n then some (k, col - csrCbase d, c.container (csrValues d) w x) else none).flatten

/-- The code at (k, j) of the gathered slice: the last entry, or zero. -/
def csrAt (es : List (Nat × Nat × Nat)) (k j : Nat) : Nat :=
  es.foldl (fun v e => if e.1 = k ∧ e.2.1 = j then e.2.2 else v) 0

/-! ## What an operation computes -/

/-- The operands as the operation sees them at its start: the pool and tiles with the results of the operations started before it
and not yet landed (R134). -/
def Core.engineView (c : Core) : Core :=
  (c.mq.filter (·.started)).foldl (fun c o => ({ (c.wz o.z o.zOut) with log := c.log }).poolWriteRemote o.pOut) c

/-- MMA, MMAI and MMAS: the new elements of the tile and the flags. -/
def mmaResult (c : Core) (o : MOp) : List (Nat × W32) × Flags :=
  let r := o.row
  let w := contWidth (rowAty r) o.shapeA
  let pa := pitchOf (rowPa r) (8 * w)
  let pb := pitchOf (rowPb r) (8 * w)
  let ao := aOff (BitVec.ofNat 64 o.aOff)
  let bo := aOff (BitVec.ofNat 64 o.bOff)
  let es := if o.kind = .mmas then csrEntries c o.desc w (rowN r) (rowK r) else []
  let a (i k : Nat) : Val := matVal (rowAty r) o.shapeA (c.container (ao + i * pa) w k)
  let b (j k : Nat) : Val :=
    matVal (rowBty r) o.shapeB (if o.kind = .mmas then csrAt es k j else c.container (bo + j * pb) w k)
  let one : Val := .fin false 1 0
  let sa (i : Nat) : Val := if rowAsc r then scaleVal (c.poolNat (ao + 64 * pa + 2 * i) 2) else one
  let sb (j : Nat) : Val :=
    if rowBsc r then scaleVal (c.poolNat (if o.kind = .mmas then csrScales o.desc + 2 * j else bo + 64 * pb + 2 * j) 2) else one
  let elems := ((List.range (rowM r)).map fun i => (List.range (rowN r)).map fun j =>
    let acc := if o.kind = .mmai then 0 else (c.rz o.z (64 * i + j)).toNat
    (64 * i + j, mmaElem acc (rowK r) (a i) (b j) (sa i) (sb j))).flatten
  let written := elems.map fun e => (e.1, BitVec.ofNat 32 e.2.1)
  let cleared := if o.kind = .mmai then (List.range 4096).map fun i => (i, (0 : W32)) else []
  (cleared ++ written, Flags.join (elems.map fun e => e.2.2))

/-- MGATH: the dense B operand (R141); where the pitch makes columns overlap the later one stands. [DESIGN CHOICE: log 126] -/
def mgathResult (c : Core) (o : MOp) : List (Nat × Byte) :=
  let r := o.row
  let w := contWidth (rowBty r) o.shapeB
  let pb := pitchOf (rowPb r) (8 * w)
  let bo := aOff (BitVec.ofNat 64 o.bOff)
  let es := csrEntries c o.desc w (rowN r) (rowK r)
  ((List.range (rowN r)).foldl (fun (st : Core × List (Nat × Byte)) j =>
    (List.range (rowK r)).foldl (fun st k =>
      let ws := st.1.putContainer (bo + j * pb) w k (csrAt es k j)
      (st.1.poolWriteRemote ws, st.2 ++ ws)) st) (c, [])).2

/-- MZLD (R142). -/
def mzldResult (c : Core) (o : MOp) : List (Nat × W32) :=
  let r := o.row
  let pa := pitchOf (rowPa r) 256
  let ao := aOff (BitVec.ofNat 64 o.aOff)
  (List.range 4096).map fun e =>
    let i := e / 64
    let j := e % 64
    (e, if i < rowM r ∧ j < rowN r then BitVec.ofNat 32 (c.poolNat (ao + i * pa + 4 * j) 4) else 0)

/-- MZST (R143): the bytes written and the flags; overlapping rows as in MGATH. [DESIGN CHOICE: log 126] -/
def mzstResult (c : Core) (o : MOp) : List (Nat × Byte) × Flags :=
  let r := o.row
  let w := contWidth (rowOty r) o.shapeO
  let pa := pitchOf (rowPa r) (8 * w)
  let ao := aOff (BitVec.ofNat 64 o.aOff)
  let conv (x : Nat) : Nat × Flags :=
    if rowOty r = 0 then (x, {}) else convert ⟨0, shF32⟩ ⟨rowOty r, Shape.ofWord o.shapeO⟩ (rowOrz r) x
  let st := (List.range (rowM r)).foldl (fun (st : Core × List (Nat × Byte) × Flags) i =>
    (List.range (rowN r)).foldl (fun st j =>
      let x := conv (c.rz o.z (64 * i + j)).toNat
      let ws := st.1.putContainer (ao + i * pa) w j x.1
      (st.1.poolWriteRemote ws, st.2.1 ++ ws, st.2.2.or x.2)) st) (c, [], {})
  st.2

/-- MTRN (R144): the whole source is read before any byte is written; overlapping rows as in MGATH. [DESIGN CHOICE: log 126] -/
def mtrnResult (c : Core) (o : MOp) : List (Nat × Byte) :=
  let r := o.row
  let w := contWidth (rowAty r) o.shapeA
  let pa := pitchOf (rowPa r) (8 * w)
  let pb := pitchOf (rowPb r) (8 * w)
  let ao := aOff (BitVec.ofNat 64 o.aOff)
  let bo := aOff (BitVec.ofNat 64 o.bOff)
  ((List.range (rowM r)).foldl (fun (st : Core × List (Nat × Byte)) i =>
    (List.range (rowK r)).foldl (fun st k =>
      let ws := st.1.putContainer (bo + k * pb) w i (c.container (ao + i * pa) w k)
      (st.1.poolWriteRemote ws, st.2 ++ ws)) st) (c, [])).2

/-- What an operation writes: tile elements, pool bytes, flags. -/
def mResult (c : Core) (o : MOp) : List (Nat × W32) × List (Nat × Byte) × Flags :=
  match o.kind with
  | .mma | .mmai | .mmas => let r := mmaResult c o; (r.1, [], r.2)
  | .mgath => ([], mgathResult c o, {})
  | .mzero => ((List.range 4096).map fun i => (i, 0), [], {})
  | .mzld => (mzldResult c o, [], {})
  | .mzst => ([], mzstResult c o)
  | .mtrn => ([], mtrnResult c o, {})

/-- Occupancy and result latency (R135). -/
def mTiming (c : Core) (o : MOp) : Nat × Nat :=
  let mma := 4 * contWidth (rowAty o.row) o.shapeA
  let e := ceilDiv (csrCount c o.desc (rowK o.row)) 16
  match o.kind with
  | .mma | .mmai => (mma, 12)
  | .mmas => (4 + e + mma, 12)
  | .mgath => (36 + e, 4)
  | .mzero => (1, 2)
  | .mzld => (64, 12)
  | .mzst => (64, 4)
  | .mtrn => (2 * contWidth (rowAty o.row) o.shapeA, 4)

/-! ## Issue (R129, R132 to R134) -/

/-- Whether an operation names a tile. -/
def MKind.namesTile : MKind → Bool
  | .mgath | .mtrn => false
  | _ => true

/-- Whether a kind is MMA, MMAI or MMAS. -/
def MKind.isMma : MKind → Bool
  | .mma | .mmai | .mmas => true
  | _ => false

/-- Whether a kind writes the pool. -/
def MKind.writesPool : MKind → Bool
  | .mgath | .mzst | .mtrn => true
  | _ => false

/-- The row in use as the core reads it. -/
def State.rowNow (s : State) : W64 := match s.mine with | some k => k.row s.core.rowNo | none => 0

/-- The address register that names the CSR descriptor of an operation. -/
def csrReg (kind : MKind) (f : MForm) : Option Nat :=
  match kind with
  | .mmas => some f.ab.toNat
  | .mgath => some f.aa.toNat
  | _ => none

/-- The CSR descriptor as the operation reads it at issue, before the stores of its own bundle (R46). [DEDUCED: log 123] -/
def csrDesc (c : Core) (kind : MKind) (f : MForm) : BitVec 256 :=
  match csrReg kind f with
  | some r => BitVec.ofNat 256 (c.poolNat (aOff (c.ra r)) 32)
  | none => 0

/-- ILLEGAL-FORMAT of an M-slot operation: the row first, then the descriptor (R129, R138). -/
def mTrap (kind : MKind) (f : MForm) (s : State) : Option Trap :=
  let c := s.core
  let r := s.rowNow
  match lowestBroken (rowChecks kind r (c.rfm (rowAfm r)) (c.rfm (rowBfm r))) with
  | some p => some ⟨0x0002, .m, c.rowNo ||| p <<< 8⟩
  | none => match csrReserved (csrDesc c kind f) with
    | some p => some ⟨0x0002, .m, 0x3F ||| (p % 64) <<< 8 ||| (p / 64) <<< 14⟩
    | none => none

/-- The span of rows of containers: `rows` rows of `cols` containers, and scale words if any. -/
def spanOf (off rows cols w pitch : Nat) (scales : Nat) : Nat × Nat :=
  if rows = 0 ∨ cols = 0 then (off, 0)
  else (off, max ((rows - 1) * pitch + ceilDiv (cols * w) 8) (if scales = 0 then 0 else 64 * pitch + 2 * scales))

/-- The banks an operation reserves (R134, R206); the register that names a CSR descriptor reserves none. [DEDUCED: log 124] -/
def mBanks (c : Core) (kind : MKind) (f : MForm) (r : W64) : List Nat :=
  let a := c.ra f.aa.toNat
  let b := c.ra f.ab.toNat
  let wa := contWidth (rowAty r) (c.rfm (rowAfm r))
  let wb := contWidth (rowBty r) (c.rfm (rowBfm r))
  let wo := contWidth (rowOty r) (c.rfm (rowOfm r))
  let res (x : W64) (sp : Nat × Nat) : List Nat := c.reserve x [sp]
  let opA := res a (spanOf (aOff a) (rowM r) (rowK r) wa (pitchOf (rowPa r) (8 * wa)) (if rowAsc r then rowM r else 0))
  let opB (sc : Nat) := res b (spanOf (aOff b) (rowN r) (rowK r) wb (pitchOf (rowPb r) (8 * wb)) sc)
  match kind with
  | .mma | .mmai => opA ++ opB (if rowBsc r then rowN r else 0)
  | .mmas => opA
  | .mgath => opB 0
  | .mzero => []
  | .mzld => res a (spanOf (aOff a) (rowM r) (rowN r) 32 (pitchOf (rowPa r) 256) 0)
  | .mzst => res a (spanOf (aOff a) (rowM r) (rowN r) wo (pitchOf (rowPa r) (8 * wo)) 0)
  | .mtrn => res a (spanOf (aOff a) (rowM r) (rowK r) wa (pitchOf (rowPa r) (8 * wa)) 0) ++ res b (spanOf (aOff b) (rowK r) (rowM r) wa (pitchOf (rowPb r) (8 * wa)) 0)

/-- Chaining (R133): an MMA, MMAI or MMAS right behind one of the same tile, which has not landed yet. -/
def Core.chains (c : Core) (kind : MKind) (z : Nat) : Bool :=
  match c.mq.getLast? with
  | some p => p.id == c.mLast && kind.isMma && p.kind.isMma && p.z == z
  | none => false

/-- A matrix operation enters its queue: what it names is read now, its token is cleared, its tile is busy. -/
def mIssue (kind : MKind) (f : MForm) (s : State) : State :=
  let r := s.rowNow
  s.mapCore fun c =>
    let id := c.nextOp
    let o : MOp := {
      id := id, kind := kind, z := f.zd.toNat, aOff := (c.ra f.aa.toNat).toNat, bOff := (c.ra f.ab.toNat).toNat,
      row := if kind = .mzero then 0 else r, shapeA := c.rfm (rowAfm r), shapeB := c.rfm (rowBfm r), shapeO := c.rfm (rowOfm r),
      desc := csrDesc c kind f, tok := f.tO.toNat, waits := c.waitsOf f.tO [f.t1, f.t2, f.t3],
      chained := c.chains kind f.zd.toNat, started := false, occEnd := 0, land := 0, zOut := [], pOut := [], flags := {},
      banks := mBanks c kind f r }
    { (c.nameToken s.now f.tO.toNat id) with mq := c.mq ++ [o], nextOp := id + 1, mLast := id }

/-- An M-slot operation: ILLEGAL-FORMAT, or the queue. -/
def mExec (kind : MKind) (f : MForm) (s : State) : Result := .next (s.orTrap (mTrap kind f s) (mIssue kind f))

/-- MMA. -/
def execMma (f : MForm) (s : State) : Result := mExec .mma f s
/-- MMAI. -/
def execMmai (f : MForm) (s : State) : Result := mExec .mmai f s
/-- MMAS. -/
def execMmas (f : MForm) (s : State) : Result := mExec .mmas f s
/-- MGATH. -/
def execMgath (f : MForm) (s : State) : Result := mExec .mgath f s
/-- MZERO. -/
def execMzero (f : MForm) (s : State) : Result := mExec .mzero f s
/-- MZLD. -/
def execMzld (f : MForm) (s : State) : Result := mExec .mzld f s
/-- MZST. -/
def execMzst (f : MForm) (s : State) : Result := mExec .mzst f s
/-- MTRN. -/
def execMtrn (f : MForm) (s : State) : Result := mExec .mtrn f s

/-! ## Start and landing -/

/-- The operations before one in the queue. -/
def opsBefore (id : Nat) : List MOp → List MOp
  | [] => []
  | o :: rest => if o.id = id then [] else o :: opsBefore id rest

/-- The operation that may start now: the first that has not started, its tokens done, the array free, its tile free of every busy
bit but its own and that of the operation it is chained to, and no VZWR writing it (R132, R133). -/
def Core.canStart (c : Core) : Option MOp :=
  match c.mq.find? fun o => !o.started with
  | none => none
  | some o =>
    let before := opsBefore o.id c.mq
    let blockers := if o.chained then before.dropLast else before
    if c.waitsOver o.waits && decide (c.mFree ≤ c.clk) &&
        (!o.kind.namesTile || (!c.zPending o.z && !blockers.any fun p => p.kind.namesTile && p.z == o.z)) then some o else none

/-- M_OP_START: the promise is set and the results are computed from what the engine sees (R132, R134, R135). [DEDUCED: log 29] -/
def execMOpStart (s : State) : Result :=
  match s.core.canStart with
  | none => .next s
  | some o =>
    .next (s.mapCore fun c =>
      let v := c.engineView
      let (occ, lat) := mTiming v o
      let r := mResult v o
      let o' := { o with started := true, occEnd := c.clk + occ, land := c.clk + occ + lat, zOut := r.1, pOut := r.2.1,
                         flags := r.2.2 }
      let c := { c with mq := c.mq.map (fun (p : MOp) => if p.id = o.id then o' else p), mFree := c.clk + occ }
      c.promise o.id (BitVec.ofNat 64 (s.now + occ + lat)))

/-- The operation whose result is due. -/
def Core.canLand (c : Core) : Option MOp := c.mq.find? fun o => o.started && decide (o.land ≤ c.clk)

/-- M_RESULT_LAND: the tile or the pool is written, the flags are ORed, the token is done, the tile's busy bit clears (R133, R137). -/
def execMResultLand (s : State) : Result :=
  match s.core.canLand with
  | none => .next s
  | some o =>
    .next (s.mapCore fun c =>
      let c := { c with mq := c.mq.filter fun (p : MOp) => p.id != o.id,
                        freed := if o.kind.writesPool then (c.freed.filter fun (f : Nat × List Nat) => f.1 == c.clk) ++ [(c.clk, o.banks)] else c.freed }
      let c := if o.zOut.isEmpty then c else c.wzOf o.id o.z o.zOut
      ((c.poolWriteOf o.id o.pOut).raise o.flags).tokenDone o.id 0 0).settle.wake

/-- A tile busy with matrix work (R133). -/
def Core.tileBusy (c : Core) (z : Nat) : Bool := c.mq.any fun o => o.kind.namesTile && o.z == z

/-- Banks a matrix operation still holds: up to the end of its occupancy, which is the first free cc, where it only reads, to its landing
where it writes (R134). [DEDUCED: log 125] -/
def MOp.holding (o : MOp) (clk : Nat) : Bool := o.kind.writesPool || !o.started || decide (clk < o.occEnd)

end Sys2Proof.Machine
end

