-- ==== Sys2Proof/Machine/Copy.lean ====
section
/-! DEFINITION. The copy engines (R146 to R172): every C-slot meaning of the chapter, acceptance, the start of a held operation, local
completion, and what happens to an outward effect after its release: drains, near-memory execution, fences; and the replies that
complete remote operations (R181, R356). -/

namespace Sys2Proof.Machine

/-- CPGET. -/
def execCpget (f : CForm) (s : State) : Result := cExec 0x01 f s
/-- CPPUT. -/
def execCpput (f : CForm) (s : State) : Result := cExec 0x02 f s
/-- CPFILL. -/
def execCpfill (f : CForm) (s : State) : Result := cExec 0x07 f s
/-- CPSTR. -/
def execCpstr (f : CForm) (s : State) : Result := cExec 0x03 f s
/-- CPTILE. -/
def execCptile (f : CForm) (s : State) : Result := cExec 0x04 f s
/-- CPPAIR. -/
def execCppair (f : CForm) (s : State) : Result := cExec 0x05 f s
/-- CPBAY. -/
def execCpbay (f : CForm) (s : State) : Result := cExec 0x06 f s
/-- NMCMD. -/
def execNmcmd (f : CForm) (s : State) : Result := cExec 0x20 f s
/-- CPWGET. -/
def execCpwget (f : CForm) (s : State) : Result := cExec 0x21 f s
/-- CPWPUT. -/
def execCpwput (f : CForm) (s : State) : Result := cExec 0x22 f s
/-- CPWACC. -/
def execCpwacc (f : CForm) (s : State) : Result := cExec 0x23 f s
/-- HGET. -/
def execHget (f : CForm) (s : State) : Result := cExec 0x30 f s
/-- HPUT. -/
def execHput (f : CForm) (s : State) : Result := cExec 0x31 f s
/-- HACC. -/
def execHacc (f : CForm) (s : State) : Result := cExec 0x32 f s
/-- FENCE. -/
def execFence (f : CForm) (s : State) : Result := cExec 0x78 f s
/-- SCFENCE. -/
def execScfence (f : CForm) (s : State) : Result := cExec 0x79 f s

/-! ## The bytes moved (R155 to R159, R163 to R168) -/

/-- Container k of a row of bytes (R158). -/
def rowElem (w : Nat) (bs : List Byte) (k : Nat) : Nat :=
  if w = 4 then (bs.getD (k / 2) 0).toNat / 16 ^ (k % 2) % 16 else natOf ((bs.drop (k * (w / 8))).take (w / 8))

/-- A row of bytes from containers, 4-bit ones low nibble first. -/
def packRow (w : Nat) (es : List Nat) : List Byte := bytesOf (ceilDiv (es.length * w) 8) (packLane w es)

/-- The pool writes of a CPTILE from the bytes it read (R158). -/
def tileWrites (c : Core) (off d : Nat) (bs : List Byte) : List (Nat × Byte) :=
  let esz := field 63 62 d
  let w := eszBits esz
  let p := eszPitch (field 87 80 d) esz
  let trn := bitOf 78 d
  let (vr, vc) := tileValid d
  let n := ceilDiv (vc * w) 8
  let fill := if esz = 3 then field 103 88 d * 2 ^ 16 else field 103 88 d % 2 ^ w
  let rows := field 54 48 d
  let cols := field 61 55 d
  let st := (List.range rows).foldl (fun (st : Core × List (Nat × Byte)) i =>
    let row := (bs.drop (i * n)).take n
    (List.range cols).foldl (fun st k =>
      let x := if i < vr ∧ k < vc then rowElem w row k else fill
      let ws := if trn then st.1.putContainer (off + k * p) w i x else st.1.putContainer (off + i * p) w k x
      (st.1.poolWriteRemote ws, st.2 ++ ws)) st) (c, [])
  let sc := if !bitOf 79 d then [] else
    let nv := if trn then vc else vr
    let src := bs.drop (vr * n)
    ((List.range 64).map fun r => cellsAt (off + 64 * p + 2 * r)
      (if r < nv then (src.drop (2 * r)).take 2 else bytesOf 2 0x7F00)).flatten
  st.2 ++ sc

/-- The bytes that an outward copy of the core sends, in the order of its runs. -/
def gatherBytes (c : Core) (o : COp) : List Byte :=
  let d := o.desc.toNat
  let off := aOff o.area
  match o.opc with
  | 0x03 => ((List.range (field 15 0 d)).map fun r => c.poolBytes (off + r * field 63 40 d) (field 39 16 d)).flatten
  | 0x05 =>
    let w := eszBits (field 63 62 d)
    let p := eszPitch (field 71 64 d) (field 63 62 d)
    let rows := field 54 48 d
    let cols := field 61 55 d
    let e (i k : Nat) : Nat := c.container (off + i * p) w k
    ((List.range rows).map fun i => packRow w ((List.range cols).map fun k => e i k)).flatten ++
      ((List.range cols).map fun k => packRow w ((List.range rows).map fun i => e i k)).flatten
  | 0x20 => c.poolBytes off 64
  | _ => c.poolBytes off o.len

/-- The lowest poisoned virtual address among some. [DESIGN CHOICE: log 70] -/
def State.poisonedVa (s : State) (o : COp) (vas : List Nat) : Option Nat :=
  vas.foldl (fun m va => if s.poisoned (o.mem va) then some (match m with | none => va | some x => min x va) else m) none

/-- The bytes of a transfer between its resume offset and where it is stopped, or its end (R355). -/
def COp.part {α : Type} (o : COp) (stop : Option Nat) (l : List α) (each : Nat := 1) : List α :=
  match stop with
  | some n => (l.take (n * each)).drop (o.moved * each)
  | none => l.drop (o.moved * each)

/-- The bytes of a get, from memory, another core's pool, a pattern, or the walker's state (R150, R159, R198). -/
def State.getBytes (s : State) (o : COp) : List Byte :=
  match o.opc with
  | 0x06 => (s.coreAt o.addr).poolBytes (field 23 0 o.desc.toNat) o.len
  | 0x07 => (List.range o.len).map fun i => BitVec.ofNat 8 (o.x.toNat / 256 ^ (i % 8))
  | 0x81 => o.staged
  | _ => (bytesOfRuns o.runs.1).map fun va => s.readByte (o.mem va)

/-- The pool writes of a get's bytes, its flags and the lines it counts (R155, R157, R158, R166). -/
def State.getWrites (s : State) (o : COp) (stop : Option Nat) : List (Nat × Byte) × Flags × Nat × Nat :=
  let off := aOff o.area
  let d := o.desc.toNat
  let bs := s.getBytes o
  match o.opc with
  | 0x03 =>
    let n := field 39 16 d
    (o.part stop ((List.range (field 15 0 d)).map fun r => cellsAt (off + r * field 63 40 d) ((bs.drop (r * n)).take n)).flatten, {}, 0, 0)
  | 0x04 => (o.part stop (tileWrites s.core off d bs) (8 / min 8 (eszBits (field 63 62 d))), {}, 0, 0)
  | 0x21 => match s.ctx? s.myCtx with
    | none => ([], {}, 0, 0)
    | some x =>
      let ls := ((chunks 128 (o.len / 128) bs).map fun l => x.getLine o.step l)
      let now := (List.range ls.length).filterMap fun i => if o.moved ≤ 128 * i ∧ stop.all (fun n => decide (128 * i < n)) then ls[i]? else none
      (o.part stop (cellsAt off (ls.map (·.line)).flatten), Flags.join (now.map (·.flags)), (now.map (·.ahead)).sum, (now.map (·.bad)).sum)
  | _ => (o.part stop (cellsAt off bs), {}, 0, 0)

/-- A get's data written to the pool up to where it stops, with what it counts; its flags and the lowest poisoned address that it has
met stay with it until its token is done (R150, R166, R231, R355). [DEDUCED: log 37] -/
def State.moveGet (s : State) (o : COp) (stop : Option Nat) : State :=
  let vas := if o.opc = 0x06 ∨ o.opc = 0x07 ∨ o.opc = 0x81 then [] else o.part stop (bytesOfRuns o.runs.1)
  let (ws, fl, ahead, bad) := s.getWrites o stop
  let err := match o.err, s.poisonedVa o vas with
    | some a, some b => some (min a b)
    | some a, none => some a
    | none, r => r
  let s := (s.writeBack ((vas.map fun va => o.mem va / 256).dedup)).countLines s.myCtx (bayOf s.core.ref) ahead bad
  s.mapCore fun c => (c.poolWriteOf o.id ws).onOp o.id fun o => { o with err := err, flags := o.flags.or fl }

/-- A get completed: its status is that of the first poisoned byte (R150), and its flags are raised (R166). -/
def State.completeGet (s : State) (o : COp) : State :=
  let s := s.moveGet o none
  let (err, fl) := match s.core.op? o.id with | some o => (o.err, o.flags) | none => (none, {})
  (s.mapCore fun c => ((c.finishLocal o.id (bit err.isSome) (err.getD 0 / 256)).raise fl).prune).settle.wake

/-! ## Sending an outward effect once it is released and its source is read -/

/-- The event that carries out a local outward effect (R152, R163). -/
def State.scheduleDrain (s : State) (o : COp) : State :=
  if o.opc = 0x20 ∨ o.opc = 0x23 ∨ o.opc = 0x32 then
    let (d, s) := s.free Config.work
    s.after (d + 1) (some s.core.ref) (.nearMemoryExecute o.id)
  else if o.opc < 0x40 then
    let (d, s) := s.free Config.work
    s.after (d + 1) (some s.core.ref) (.stagedDrain o.id)
  else s

/-- NAME of a staged record: the engine and how many of its operations stand before this one (R339). [PRESUMED: log 132] -/
def Core.engineName (c : Core) (o : COp) : Nat :=
  (match o.f.unit with | .c0 => 0 | .c1 => 2 ^ 15) + (c.ops.filter fun p => p.f.unit == o.f.unit && decide (p.id < o.id)).length % 2 ^ 15

/-- A put's source read: staged in the log where it is still withheld (R152, R339). -/
def State.completePut (s : State) (o : COp) : State :=
  let bs := o.staged ++ o.part none (gatherBytes s.core o)
  let s := s.mapCore fun c =>
    let c := (c.onOp o.id fun o => { o with staged := bs, logged := !o.released && c.logs }).finishLocal o.id 0 0
    if !o.released && c.logs then { c with log := .staged c.interval o.id bs.length (aOff o.area) (c.engineName o) :: c.log } else c
  let s := if o.released then s.scheduleDrain o else s
  s.settle.wake

/-- C_OP_LOCAL_COMPLETE: bytes move into the pool or the source is read, or the request is posted; the token is done (R150, R175). -/
def execCOpLocalComplete (op : Nat) (s : State) : Result :=
  .next (match s.core.op? op with
    | none => s
    | some o =>
      let due := match o.promise with | some p => decide (p ≤ s.now) | none => false
      if o.stage ≠ CStage.moving ∨ !due then s
      else
        let local_ (st : Nat) (s : State) : State := (s.mapCore fun c => c.finishLocal op st 0).wake
        if s.core.unsentBefore o || (o.opc = 0x46 && s.storesBefore o) then s.after 1 (some s.core.ref) (.cOpLocalComplete op)
        else if o.opc = 0x40 then (local_ 0 s).postCreate o
        else if isEpoch o.opc then (local_ 0 s).postEpoch o
        else if o.opc = 0x65 ∨ o.opc = 0x66 then (local_ o.status s).mapCore fun c => c.finishDrain op
        else if o.opc = 0x43 ∨ o.opc = 0x44 ∨ o.outward then s.completePut o
        else s.completeGet o)

/-! ## Acceptance and start (R148, R149, R153, R175, R176) -/

/-- The operation an engine may accept now: its first queued one, its tokens done, the transfer phase before it over, and no post
awaited (R148, R249); a fenced engine accepts nothing (R387). -/
def State.canAccept (s : State) (u : CUnit) : Option COp :=
  let c := s.core
  match c.ops.find? fun (o : COp) => o.f.unit == u && o.stage == .queued with
  | none => none
  | some o =>
    let e := match u with | .c0 => c.eng0 | .c1 => c.eng1
    let ok := !s.fencedUnit (.engine (bayOf c.ref) (coreIdOf c.ref) u)
    if ok && c.waitsOver o.waits && decide (e.freeAt ≤ c.clk) && !s.awaitsPost o then some o else none

/-- T of R149 and R175; a COLL's is of the transfers whose peer is a participant (R197). -/
def State.costOf (s : State) (o : COp) : Nat :=
  let d := o.desc.toNat
  if o.opc = 0x80 then match s.ownWindow (field 775 768 d) with
    | some w => ceilDiv (((List.range (nestSize d)).filter fun n => (nestTransfer d w.rank n).isSome).length * field 887 864 d) 128
    | none => 0
  else o.cost

/-- Where the counter lies that a selector names: the bay of the domain and the id; a queue counter stands in its queue's HOME bay (R186,
R370). -/
def State.counterPlace (s : State) (x : W64) : Option (Nat × Nat) :=
  (s.selector x).map fun c => match (s.queueOf s.core.kernel c.2).bind fun q => s.queue? q.1 q.2.1 with
    | some q => (s.globalBay q.home, c.2)
    | none => c

/-- B of R149 and R175; D is 40, 360 or 1,800 cc by where the target lies, the farthest one where an access is striped.
[DEDUCED: log 131] -/
def State.latencyOf (s : State) (o : COp) : Nat :=
  let d := o.desc.toNat
  let dist (g : Nat) : Nat := if g = s.globalBay (bayOf s.core.ref) then 40 else if g / 8 = s.node.toNat then 360 else 1800
  let target : Nat := match s.ownWindow (field 7 0 d) with
    | some w => ((s.targetsOf o.opc d).map fun r => dist ((s.memberBay w r).getD 0)).foldl max 40
    | none => 40
  let counter : Nat := match s.counterPlace o.x with
    | some (g, _) => dist g
    | none => 40
  match o.opc with
  | 0x01 => 220
  | 0x21 => 220
  | 0x30 => 220
  | 0x03 => if o.outward then 6 else 220
  | 0x04 => 220
  | 0x06 => if o.outward then 6 else 40
  | 0x07 => 4
  | 0x42 => target
  | 0x60 => target
  | 0x61 => target
  | 0x62 => target
  | 0x63 => counter
  | 0x64 => counter
  | 0x78 => if o.f.sx.toNat / 4 < 2 then 4 else if o.f.sx.toNat / 4 = 2 then 240 else if o.f.sx.toNat / 4 = 3 then 480 else 2400
  | 0x79 => if o.f.sx.toNat / 4 < 2 then 4 else if o.f.sx.toNat / 4 = 2 then 240 else if o.f.sx.toNat / 4 = 3 then 480 else 2400
  | _ => if 0x70 ≤ o.opc ∧ o.opc ≤ 0x74 then 40 else if isEpoch o.opc ∨ o.opc = 0x65 ∨ o.opc = 0x66 ∨ 0x80 ≤ o.opc then 4 else 6

/-- The target core of a CPBAY or bay atomic: bound, in the bay, of a kernel of the context (R161). [DEDUCED: log 49] -/
def State.bayTarget (s : State) (xk : Option Nat) (idx : Nat) : Option Nat :=
  match s.mine with
  | none => none
  | some k =>
    let kr : Option Kernel := match xk with
      | none => some k
      | some sel => s.kernels.find? fun (j : Kernel) => j.ctx == k.ctx && j.imgKey == (k.imgKey.1, sel) &&
          !(j.phase == .waiting || j.phase == .retired || j.phase == .preempted)
    match kr with
    | none => none
    | some j => if j.phase = .preempted then none else match j.cores.find? fun r => (s.coreAt r).idx == idx with
      | some r => if bayOf r = bayOf s.core.ref then some r else none
      | none => none

/-- The blocks a yard access waits for, with its region (R326 step 3). -/
def State.relayBlocks (s : State) (o : COp) (a : Nat) : List (Nat × Nat) :=
  if 0x30 ≤ o.opc ∧ o.opc ≤ 0x32 then match s.regionAt s.myCtx a with
    | some g => g.pendingBlocks a (16 + field 31 0 o.y.toNat) o.len
    | none => []
  else []

/-- What stands in the way of an operation that has been accepted. -/
inductive Start where
  | wait
  | fault (pages : List (Nat × Nat))
  | lookup
  | refuse (status va : Nat)
  | empty
  | go (addr : Nat) (phys : List (Nat × Nat))
  deriving DecidableEq, Repr

/-- The address an operation goes to: a target core, or what was found for it: the object of a yard access at acceptance, the counter or
barrier object that it names. -/
def State.resolveOp (s : State) (o : COp) : Option Nat :=
  let d := o.desc.toNat
  match o.opc with
  | 0x06 => s.bayTarget (if bitOf 68 d then some (field 87 72 d) else none) (field 63 48 d)
  | 0x73 => if field 23 0 d % dtyBytes (field 42 40 d) = 0 then s.bayTarget none (field 39 24 d) else none
  | 0x74 => if field 23 0 d % dtyBytes (field 42 40 d) = 0 then s.bayTarget none (field 39 24 d) else none
  | _ => some o.addr

/-- A yard access resolved as it is accepted: the address of its object's copy at that moment (R168, R323, R328). -/
def State.resolveYard (s : State) (o : COp) : COp :=
  if 0x30 ≤ o.opc ∧ o.opc ≤ 0x32 then match s.yardObject s.core.ref o.href with
    | some (a, key) => { o with addr := a, parts := if (s.region? key).any (·.current o.href) then 2 else 0 }
    | none => o
  else o

/-- The refusals of remote operations at acceptance (R174, R181, R184, R186, R188, R189, R197). -/
def State.remoteRefused (s : State) (o : COp) : Bool :=
  let d := o.desc.toNat
  if isEpoch o.opc then s.epochRefused o.opc d
  else if isAccess o.opc ∨ o.opc = 0x80 then s.localRefusal o.opc d
  else match o.opc with
    | 0x63 => (s.selector o.x).isNone
    | 0x64 => (s.selector o.x).isNone
    | 0x66 => decide (256 ≤ o.x.toNat)
    | 0x70 => aOff o.area % 16 != 0
    | 0x71 => aOff o.area % 16 != 0
    | 0x72 => aOff o.area % 16 != 0
    | _ => false

/-- The region and the cost of the lookup that a yard access needs: its reference was not current at acceptance (R168, R323). -/
def State.needsLookup (s : State) (o : COp) : Option (Region × Nat) :=
  if 0x30 ≤ o.opc ∧ o.opc ≤ 0x32 ∧ o.parts = 0 ∧ o.href ≠ 0 then
    (s.regionAt s.myCtx (refAddr o.href)).map fun g => (g, s.lookupCost g (bayOf s.core.ref) (refAddr o.href))
  else none

/-- Whether earlier yard stores of the core, released and not visible yet, share a byte with an HGET: it reads after them, for no store
to an object is lost to its reader (R272, R317, R329). [DEDUCED: log 142] -/
def State.yardStoreBefore (s : State) (o : COp) : Bool :=
  o.opc == 0x30 && (earlierOps o.id s.core.ops).any fun p =>
    (p.opc == 0x31 || p.opc == 0x32) && p.released && !p.drained && p.stage != .queued &&
      o.runs.1.any fun r => p.runs.2.any fun q => rangesMeet r.1 r.2 q.1 q.2

/-- A yard access that passes the end of its object at `a`: the block of the first byte beyond it (R168). -/
def State.beyondObject (s : State) (o : COp) (a : Nat) : Option Nat :=
  if 0x30 ≤ o.opc ∧ o.opc ≤ 0x32 then
    let size := match s.regionAt s.myCtx a with | some g => s.presentBytes s.myCtx g a | none => 0
    let first := 16 + field 31 0 o.y.toNat
    if size < first + o.len then some ((a + max size first) / 256) else none
  else none

/-- The state of an accepted operation's checks. A check that concerns no byte reports none. [DESIGN CHOICE: log 119] -/
def State.startOf (s : State) (o : COp) : Start :=
  if s.plainRefusal s.core.ref o then .refuse 2 0
  else if s.remoteRefused o then .refuse 2 0
  else if o.opc < 0x40 ∧ o.empty then .empty
  else if (s.needsLookup o).isSome then .lookup
  else match s.resolveOp o with
    | none => .refuse 2 0
    | some a =>
      let o := { o with addr := a }
      let (rd, wr) := o.runs
      let far : Option Nat := s.beyondObject o a
      match s.ctx? s.myCtx with
      | none => if rd.isEmpty && wr.isEmpty && !o.tooLong then .go a [] else .refuse 2 0
      | some x =>
        if !o.faulted.isEmpty then .wait
        else match x.translate s.node.toNat (bayOf s.core.ref) o.refused rd wr with
        | .wait ps => .fault ps
        | .refuse st b => match far with
          | some v => .refuse 2 (min b v)
          | none => .refuse (if o.tooLong then 2 else st) b
        | .ok ph =>
          if o.tooLong then .refuse 2 0
          else if let some v := far then .refuse 2 v
          else if !(s.relayBlocks o a).isEmpty || s.yardStoreBefore o then .wait
          else if (awaitsRelease o.opc && !o.released) || s.core.heldBehind o then .wait
          else if (o.opc = 0x63 ∨ o.opc = 0x71) ∧ !s.core.coversOver o then .wait
          else if isAccess o.opc && s.awaitsPost o then .wait
          else if (o.opc = 0x63 ∨ (0x70 ≤ o.opc ∧ o.opc ≤ 0x74 ∧ o.outward) ∨ o.opc = 0x80) ∧ s.core.leavesAfter o then .wait
          else if (0x70 ≤ o.opc ∧ o.opc ≤ 0x74 ∧ o.outward) ∧ s.writesBefore { o with addr := a } then .wait
          else if o.opc = 0x80 ∧ (s.core.walkers.any fun w => w.state == 1) then .wait
          else if asksOnce o.opc && s.core.room o.f.unit == 0 then .wait
          else .go a ph

/-- The promise of an operation that has been accepted and, where it waits for the release, released: a + T + B from now (R175); a take
on a queue counter has none before its grant (R370). -/
def State.setPromise (s : State) (o : COp) : State :=
  if o.stage ≠ CStage.held ∨ o.promise.isSome ∨ (s.mine.any fun k => k.isTake o) then s
  else
    let p := s.now + s.costOf o + s.latencyOf o
    s.mapCore fun c => (c.onOp o.id fun o => { o with promise := some p }).promise o.id (BitVec.ofNat 64 p)

/-- An operation sets out: its promise is set where it was not, and its completion is due or its request leaves (R149, R175). What its
own TLB does not hold makes it late (R149, R374). -/
def State.setOut (s : State) (o : COp) (addr : Nat) (phys : List (Nat × Nat)) : State :=
  let d := o.desc.toNat
  let p := match o.promise with
    | some p => p
    | none => s.now + s.costOf o + s.latencyOf o
  let take := s.mine.any fun k => k.isTake o
  let o := { o with stage := .moving, addr := addr, phys := phys, promise := if take then none else some p,
                    staged := if o.opc = 0x81 then s.core.collStatus s.now else o.staged,
                    accs := if isAccess o.opc then (s.accessesOf o.id o.opc d o.step o.fi o.opened
                        (if 0x60 ≤ o.opc then s.core.poolBytes (aOff o.area) o.len else [])).filter (fun a => o.opc != 0x42 || decide (o.moved ≤ a.part))
                      else [] }
  let s := s.mapCore fun c =>
    let c := c.onOp o.id fun _ => o
    if take then c else c.promise o.id (BitVec.ofNat 64 p)
  let pages : List (Nat × Nat) := match s.ctx? s.myCtx with
    | some x => (phys.filterMap fun e => x.pageOf (e.1 * 256)).dedup
    | none => []
  let own := match o.f.unit with | .c0 => s.core.eng0.tlb | .c1 => s.core.eng1.tlb
  let missed := pages.filter fun p => !own.contains p
  let cost := match s.ctx? s.myCtx with
    | some x => (missed.map (s.pageCost (bayOf s.core.ref) x)).sum
    | none => 0
  let s := (s.useDie (bayOf s.core.ref) s.myCtx missed).mapCore fun c =>
    match o.f.unit with | .c0 => { c with eng0 := c.eng0.use pages } | .c1 => { c with eng1 := c.eng1.use pages }
  let timed (s : State) : State :=
    let (l, s) := s.free Config.late
    s.after (p - s.now + cost + l) (some s.core.ref) (.cOpLocalComplete o.id)
  if o.opc = 0x42 ∨ (0x60 ≤ o.opc ∧ o.opc ≤ 0x62) then
    if s.mayLeave o then s.sendGet o else s
  else if o.opc = 0x63 ∨ o.opc = 0x64 then match s.counterPlace o.x with
    | some (g, id) => s.toBayOf s.core.ref o.id g fun b =>
        .counterIncrement ⟨s.core.kernel, b, id, if o.opc = 0x63 then o.y else 0, s.coreName b s.core.ref, o.id, false, []⟩
    | none => s
  else if 0x70 ≤ o.opc ∧ o.opc ≤ 0x74 then
    let s := s.send (some s.core.ref) (.bayAtomicOp s.core.ref o.id)
    if o.opc = 0x72 then s.after (o.accAt + o.y.toNat - s.now) (some s.core.ref) (.barwaitTimeout o.id) else s
  else if o.opc = 0x80 then s.startWalker o
  else if o.opc = 0x78 ∨ o.opc = 0x79 then s
  else timed s

/-- The completion of an operation that moves no byte: at once, and an outward one is withheld as any other (R149, R154). -/
def State.completeEmpty (s : State) (o : COp) : State :=
  let s := s.mapCore fun c => ((c.promise o.id (BitVec.ofNat 64 o.accAt)).finishLocal o.id 0 0).prune
  (if o.outward && o.released then s.mapCore fun c => c.finishDrain o.id else s).wake

/-- An operation that has been accepted and not yet started is tried (R153, R174, R176); it posts as many faults as its engine has room
for (R1, R378, R379). -/
def State.tryStart (s : State) (o : COp) : State :=
  match s.startOf o with
  | .wait => match (if 0x30 ≤ o.opc ∧ o.opc ≤ 0x32 then s.resolveOp o else none) with
    | none => s
    | some a => match s.regionAt s.myCtx a with
      | none => s
      | some g => s.onRegion g.key fun g => { g with jobs := g.jobs.map fun j => match j with
        | .batch b => if b.step.isNone then j
            else .batch { b with demand := b.demand ++ (s.relayBlocks o a).filter fun d => !b.demand.contains d }
        | j => j }
  | .lookup => match s.needsLookup o with
    | some (g, cost) =>
      let (l, s) := (s.touchYard g (refAddr o.href)).free Config.late
      (s.mapCore fun c => c.onOp o.id fun o => { o with parts := 1 }).after (cost + l) (some s.core.ref) (.yardLookupReply (some o.id))
    | none => s
  | .fault ps =>
    let ps := (ps.filter fun p => p.2 != 3).take (s.core.room o.f.unit)
    let s := s.mapCore fun c => c.onOp o.id fun o => { o with faulted := ps.map (·.1) }
    ps.foldl (fun s p =>
      s.postFault s.myCtx p.1 (if o.opc = 0x20 then 4 else match o.f.unit with | .c0 => 0 | .c1 => 1) (coreIdOf s.core.ref)
        (bayOf s.core.ref) p.2) s
  | .refuse st va => ((if o.opc = 0x80 then s.deadWalker o 6 else s).mapCore fun c => c.refuse o.id st va).wake
  | .empty => s.completeEmpty o
  | .go a ph => s.setOut o a ph

/-- C_OP_ACCEPT: the engine takes its next operation, sets the promise that does not await a release, and makes its checks. -/
def execCOpAccept (u : CUnit) (s : State) : Result :=
  .next (match s.canAccept u with
    | none => s
    | some o =>
      let o := s.resolveYard { o with targets := s.targetsOf o.opc o.desc.toNat,
                                      routes := if isEpoch o.opc then [] else s.routesOf o.opc o.desc.toNat }
      let t := if 0x40 ≤ o.opc ∧ o.opc ≠ 0x78 ∧ o.opc ≠ 0x79 then max (s.costOf o) 1 else o.cost
      let p := if (awaitsRelease o.opc && !o.released) || s.core.heldBehind o || s.mine.any (fun k => k.isTake o) then none
        else some (if o.opc < 0x40 ∧ o.empty then s.now else s.now + s.costOf o + s.latencyOf o)
      let o := { o with stage := .held, accAt := s.now, promise := p }
      let s := s.mapCore fun c =>
        let c := c.onOp o.id fun _ => o
        let c := match p with | some p => c.promise o.id (BitVec.ofNat 64 p) | none => c
        match u with
        | .c0 => { c with eng0 := { c.eng0 with freeAt := c.clk + t } }
        | .c1 => { c with eng1 := { c.eng1 with freeAt := c.clk + t } }
      s.tryStart o)

/-! ## After the release (R152, R163, R164, R169, R170) -/

/-- Whether a page that an operation touches is migrating (R275). -/
def State.migrating (s : State) (o : COp) : Bool :=
  match s.ctx? s.myCtx with
  | some x => o.phys.any fun e => match x.leaf? (e.1 * 256) with | some w => leafMig w | none => false
  | none => false

/-- Whether the core is frozen on the lookup of an HLD. -/
def Core.loadsRef (c : Core) : Bool := match c.run with | .frozen (.yard w) => !w.pin | _ => false

/-- An operation whose effect may take place now, or which is tried again in the next cc. An HPUT lands after the lookup of an HLD that
its core waits for: the relay engine serves them in that order (R316). [DEDUCED: log 143] -/
def State.drainable (s : State) (op : Nat) (again : Instr) (f : COp → State) : State :=
  match s.core.op? op with
  | none => s
  | some o =>
    if !o.released || o.drained || o.stage ≠ CStage.localDone then s
    else if s.writesBefore o || s.migrating o || (o.opc == 0x31 && s.core.loadsRef) then s.after 1 (some s.core.ref) again
    else f o

/-- The end of a store, with the lowest address at which an error was found (R170). -/
def State.endStore (s : State) (op : Nat) (bad : Option Nat) : State :=
  s.mapCore fun c => (match bad with | some va => c.memoryError op va | none => c).finishDrain op

/-- The 128-byte lines of memory that some runs cover, as `State.writeSpans` names bytes. -/
def COp.linesAt (o : COp) (runs : List (Nat × Nat)) : List (Nat × Nat × Nat) :=
  runs.flatMap fun r => (List.range (r.2 / 128)).map fun i => (0, o.mem (r.1 + 128 * i), 128)

/-- STAGED_DRAIN: the staged bytes of a released put reach memory, or the target's pool (R152, R161, R167). [DESIGN CHOICE: log 12, 55] -/
def execStagedDrain (op : Nat) (s : State) : Result :=
  .next (s.drainable op (.stagedDrain op) fun o =>
    let d := o.desc.toNat
    if o.opc = 0x06 then (s.onCore o.addr fun c => c.poolWriteRemote (cellsAt (field 23 0 d) o.staged)).endStore op none
    else
      let vas := bytesOfRuns o.runs.2
      let ls := if o.opc = 0x22 then (chunks 128 (o.len / 128) o.staged).map (putLine o.step) else []
      let bs := if o.opc = 0x22 then (ls.map (·.line)).flatten else o.staged
      let s := s.writeBack ((vas.map fun va => o.mem va / 256).dedup)
      let s := s.beforeLines (o.linesAt (if o.opc = 0x22 then o.runs.2 else []))
      let s := s.countLines s.myCtx (bayOf s.core.ref) ((ls.map (·.ahead)).sum) ((ls.map (·.bad)).sum)
      let (s, dropped) := s.memStore ((vas.map o.mem).zip bs)
      let bad := vas.foldl (fun m va => if dropped.contains (o.mem va) then some (match m with | none => va | some x => min x va) else m) none
      s.endStore op bad)

/-- A near-memory element operation: the new code of d from the old and from s (R163). -/
def nmElement (opc ety alpha beta d x : Nat) : Nat :=
  let sh := if ety = 1 then shBf16 else shF32
  let a := shF32.decodeIeee alpha
  let b := shF32.decodeIeee beta
  let dv := sh.decodeIeee d
  let sv := sh.decodeIeee x
  match opc with
  | 1 => (sh.round false (a, false)).1
  | 2 => (sh.round false (a.mul dv)).1
  | 3 => (sh.round false (a.fma sv dv)).1
  | 4 =>
    let p := b.mul dv
    let q := a.fma sv p.1
    (sh.round false (q.1, p.2 || q.2)).1
  | _ => x

/-- The elements of one unit of a near-memory command, a burst or a line, in ascending order over memory: each gives its destination
address and its source address if it reads one; `f` gives an element's step. A unit whose update would read poison is left, and one that
is written without being read sheds its poison where it is covered whole (R163, R164, R170). The answer lists the failing addresses: of a
poisoned burst read, or of a partial write dropped. [DEDUCED: log 91] -/
def State.elementUnit (s : State) (o : COp) (es : List (Nat × Option Nat)) (n : Nat) (readsD : Bool)
    (f : State → Nat → List Byte → List Byte → List Byte × State) : State × List Nat :=
  let burst (a : Nat) : List Nat := ((List.range (ceilDiv n 64)).map fun j => a + 64 * j).filter fun a => s.poisoned (o.mem a)
  let errs (e : Nat × Option Nat) : List Nat :=
    (if readsD then burst e.1 else []) ++ (match e.2 with | some x => burst x | none => []) ++
      (if !readsD && s.poisoned (o.mem e.1) && es.length * n != 64 then [e.1] else [])
  match es.flatMap errs with
  | [] =>
    let s := if readsD then s else { s with poison := s.poison.filter fun b => !es.any fun e => o.mem e.1 / 64 == b }
    (es.foldl (fun s e =>
      let dst := (List.range n).map fun j => o.mem (e.1 + j)
      let src := match e.2 with | some x => s.memBytes (o.mem x) n | none => []
      let r := f s e.1 (dst.map s.memByte) src
      r.2.memWrite (dst.zip r.1)) s, [])
  | bad => (s, bad)

/-- Elements processed in ascending order, unit by unit: what an earlier unit has made clean is clean when a later one reads it (R163,
R164). The answer is the lowest failing address. -/
def State.elements (s : State) (o : COp) (es : List (Nat × Option Nat)) (n unit : Nat) (readsD : Bool)
    (f : State → Nat → List Byte → List Byte → List Byte × State) : State × Option Nat :=
  let r := ((es.map fun e => e.1 / unit).dedup).foldl (fun (st : State × List Nat) u =>
    let q := st.1.elementUnit o (es.filter fun e => e.1 / unit == u) n readsD f
    (q.1, st.2 ++ q.2)) (s, [])
  (r.1, match r.2 with | [] => none | a :: rest => some (rest.foldl min a))

/-- The near-memory unit takes a released command over, with its staged bytes, which leave the log (R152, R163); it runs it a free
time after the 220 cc that R149 gives a read of memory. [DEDUCED: log 133] -/
def State.handOver (s : State) (o : COp) : State :=
  if !o.released || o.drained || o.stage ≠ CStage.localDone then s
  else
    let (d, s) := s.free Config.work
    (s.mapCore fun c => { (c.onOp o.id fun o => { o with handed := true, logged := false }) with log := dropStaged o.id c.log }).after
      (220 + d) (some s.core.ref) (.nearMemoryExecute o.id)

/-- NEAR_MEMORY_EXECUTE: NMCMD, CPWACC or HACC is taken over, and then runs element by element or line by line (R163, R164, R167,
R168). -/
def execNearMemoryExecute (op : Nat) (s : State) : Result :=
  .next (if (s.core.op? op).any fun o => !o.handed then (match s.core.op? op with | some o => s.handOver o | none => s)
  else s.drainable op (.nearMemoryExecute op) fun o =>
    let ctx := s.myCtx
    let bay := bayOf s.core.ref
    let vas := bytesOfRuns (o.runs.1 ++ o.runs.2)
    let s := s.writeBack ((vas.map fun va => o.mem va / 256).dedup)
    let s := s.beforeLines (o.linesAt (if o.opc = 0x23 ∨ (o.opc = 0x20 ∧ field 7 0 o.desc.toNat = 6) then o.runs.2 else []))
    let line (s : State) (m p : List Byte) : List Byte × State := match s.ctx? ctx with
      | some x => let r := x.accLine o.step m p; (r.line, s.countLines ctx bay r.ahead r.bad)
      | none => (m, s)
    let r : State × Option Nat :=
      if o.opc = 0x23 then
        let es := (List.range (o.len / 128)).map fun i => (o.x.toNat + 128 * i, (none : Option Nat))
        s.elements o es 128 128 true fun s va m _ => line s m ((o.staged.drop (va - o.x.toNat)).take 128)
      else if o.opc = 0x32 then
        let base := o.addr + 16 + field 31 0 o.y.toNat
        let es := (List.range (o.len / 4)).map fun i => (base + 4 * i, (none : Option Nat))
        s.elements o es 4 64 true fun s va m _ =>
          (bytesOf 4 (elemCombine 0 (if bitOf 63 o.y.toNat then 1 else 0) (natOf m) (natOf ((o.staged.drop (va - base)).take 4))), s)
      else
        let d := o.desc.toNat
        let opc := field 7 0 d
        let n := if opc = 6 then 128 else if bitOf 11 d then 2 else 4
        let es := (List.range (field 63 32 d)).map fun i =>
          (field 127 64 d + n * i, if 3 ≤ opc then some (field 191 128 d + n * i) else none)
        if opc = 6 then s.elements o es 128 128 true fun s _ m p => line s m p
        else s.elements o es n 64 (opc != 1 && opc != 5) fun s _ m p =>
          (bytesOf n (nmElement opc (bit (bitOf 11 d)) (field 223 192 d) (field 255 224 d) (natOf m) (natOf p)), s)
    r.1.endStore op r.2)

/-- The SC order with one more fence: by the time its token became done, then by module, bay and COREID, then by its operation (R268). -/
def insertSc : List (Nat × Nat × Nat) → Nat × Nat × Nat → List (Nat × Nat × Nat)
  | [], f => [f]
  | g :: rest, f =>
    if g.1 < f.1 ∨ (g.1 = f.1 ∧ (g.2.1 < f.2.1 ∨ (g.2.1 = f.2.1 ∧ g.2.2 ≤ f.2.2))) then g :: insertSc rest f else f :: g :: rest

/-- FENCE_COMPLETE: everything the fence covers is visible; an error found at memory is its status, and so no other fence's to report
unless it covers it too (R169, R170, R268, R391). -/
def execFenceComplete (op : Nat) (s : State) : Result :=
  .next (match s.core.op? op with
    | none => s
    | some o =>
      if o.stage ≠ CStage.moving ∨ !s.core.coversOver o ∨ !(o.opc = 0x78 ∨ o.opc = 0x79) then s
      else
        let s := s.mapCore fun c => { (match o.err with
          | some va => c.finishLocal op 1 (va / 256)
          | none => c.finishLocal op 0 0).prune with noted := c.noted.filter fun ids => !ids.contains op }
        (if o.opc = 0x79 then { s with scOrder := insertSc s.scOrder (s.now, s.core.ref, op) } else s).wake)

/-! ## Replies (R181, R183, R356) -/

/-- The status of an operation of several parts: the first nonzero one in ascending place (R253). -/
def partsStatus (rs : List (Nat × Nat)) : Nat :=
  ((rs.filter fun r => r.2 % 256 != 0).foldl (fun (m : Option (Nat × Nat)) r => match m with
    | none => some r
    | some q => if r.1 < q.1 then some r else some q) none).map (·.2 % 256) |>.getD 0

/-- The data of a reply written to the pool at its place: a get's bytes, or an old value. -/
def State.replyData (s : State) (o : COp) (r : Reply) : State :=
  let off := aOff o.area + r.part
  if r.data.isEmpty ∨ (o.opc = 0x63) then s
  else s.mapCore fun c => if o.fired then c.poolWriteRemote (cellsAt off r.data) else c.poolWriteOf o.id (cellsAt off r.data)

/-- What a walker notes of a reply: a transfer or a delivery acknowledged, and whether it failed, or met a fence (R290, R387). -/
def Walker.answered (wk : Walker) (r : Reply) (failed : Bool) : Walker :=
  let wk := { wk with rejected := wk.rejected || failed, status := if wk.state ≠ 3 ∧ r.status = fencedMark + 6 then 6 else wk.status }
  if r.part = 1 then { wk with finals := wk.finals - 1 } else { wk with landed := wk.landed + 1 }

/-- The walker of an operation changed. -/
def Core.onWalkerOp (c : Core) (op : Nat) (f : Walker → Walker) : Core :=
  { c with walkers := c.walkers.map fun wk => if wk.op = op then f wk else wk }

/-- A reply to a transfer or a delivery of a collective of the core (R289, R290). A get's bytes wait for a page that they cannot be written
to yet (R246, R275, R378), and its increment is in this bay (R196). A partial write dropped at a poisoned burst is the fences' to report
(R170). Once the collective is over a reply has no effect (R292) but that its stores are over with the last (R267). -/
def State.walkerReply (s : State) (wk : Walker) (r : Reply) : State :=
  match s.window? wk.key with
  | none => s
  | some w =>
    let run : Nat × List Byte := (r.part - 2, r.data)
    let lands : Bool := wk.state != 3 && decide (2 ≤ r.part) && (r.status == 0 || r.status == 5)
    match (if !lands then Found.ok [] else if wk.pages.isEmpty then s.runsFound w wk.refused [run] else .wait []) with
    | .wait pages =>
      let s := if wk.pages.isEmpty then
          (s.postPages w 2 pages).mapCore fun c => c.onWalkerOp wk.op fun wk => { wk with pages := faultPages pages }
        else s
      s.after 1 none (.remoteCompletion r)
    | found =>
      let refused : Bool := match found with | .refuse _ _ => true | _ => false
      let q := if lands && !refused then s.storeRuns w wk.refused [run] else (s, false)
      let s := if lands && !refused && bitOf 818 wk.record.toNat then
          q.1.cenIncrement wk.key (field 817 808 wk.record.toNat) s.core.ref wk.op
        else q.1
      let failed := refused || !(r.status == 0 || r.status == 5 || r.status == 0x100)
      let s := s.mapCore fun c =>
        let c := if q.2 || r.status == 0x100 then c.memoryError wk.op 0 else c
        let c := c.onWalkerOp wk.op fun wk => wk.answered r failed
        if c.walkers.any (fun wk => wk.op == r.op && wk.state == 3 && wk.landed == wk.emitted && wk.finals == 0) then c.finishDrain wk.op else c
      if wk.state = 3 then s else s.progress wk.key wk.num

/-- The increment that a striped put or accumulate asks for: once every part stands, and none was turned away (R180, R253, R269).
[DEDUCED: log 43] -/
def State.stripedIncrement (s : State) (o : COp) (applied : Bool) : State :=
  let d := o.desc.toNat
  if applied ∧ (o.opc = 0x43 ∨ o.opc = 0x44) ∧ bitOf 50 d ∧ 1 < o.parts then match s.ownWindow (field 7 0 d) with
    | some w => match ((s.targetsOf o.opc d).getLast?).bind (s.memberBay w) with
      | some g => s.toBay (bayOf s.core.ref) g fun b => .counterIncrement
          ⟨w.kernel, b, field 49 40 d, 1, s.core.ref, o.id, true, if g / 8 = s.node.toNat then o.covers else []⟩
      | none => s
    | none => s
  else s

/-- A reply at an operation of the core in focus. -/
def State.replyAt (s : State) (o : COp) (r : Reply) : State :=
  let s := s.replyData o r
  let rs := o.replies ++ [(r.part, r.status)]
  let s := s.mapCore fun c => c.onOp o.id fun o => { o with replies := rs, asked := o.asked.filter (· != r.part) }
  if o.opc = 0x40 ∨ o.opc = 0x41 then match s.ownWindow (field 7 0 o.desc.toNat) with
    | some w => ((if o.opc = 0x40 then s.settleCreate w.key else s.settleFree w.key)).wake
    | none => s
  else if rs.length < o.parts then s.settle
  else
    let st := partsStatus rs
    let s := s.mapCore fun c =>
      let c := if rs.any fun x => 256 ≤ x.2 then c.memoryError o.id 0 else c
      if o.opc = 0x43 ∨ o.opc = 0x44 then (c.finishRemote o.id st).finishDrain o.id
      else if o.opc = 0x42 ∨ (0x60 ≤ o.opc ∧ o.opc ≤ 0x62) then
        ((c.finishLocal o.id (tokenStatus st) 0).finishRemote o.id st).finishDrain o.id
      else if o.opc = 0x63 ∨ o.opc = 0x64 then
        ((if (s.kernel? c.kernel).any fun k => k.isTake o then c.promise o.id s.mcyc else c).finishLocal o.id (tokenStatus st) 0).finishDrain o.id
      else (c.finishRemote o.id st).finishDrain o.id
    (s.stripedIncrement o (rs.all fun x => x.2 % 256 == 0 || x.2 % 256 == 5)).settle.wake

/-- A core after the reply to a part that it fetches again has come, and been dropped (R356). -/
def Core.dropStale (c : Core) (op part : Nat) : Core := c.onOp op fun o => { o with stale := o.stale.erase part }

/-- A reply put into the reply area of a saved core (R356). -/
def Kernel.parkAt (k : Kernel) (ref : Nat) (p : Parked) : Kernel :=
  { k with saved := k.saved.map fun r => if r.core.ref = ref then { r with replies := r.replies ++ [p] } else r }

/-- A reply to a saved core, in the reply area of its record (R354, R356): what a stopped copy fetches again is dropped, and more than 32
bytes of a collective's get are fetched again as well. [DEDUCED: log 67] -/
def State.park (s : State) (k : Kernel) (c : Core) (r : Reply) : State :=
  let on (f : Core → Core) : State := s.onKernel k.seq fun k => k.onSaved c.ref f
  let keep (kind : ParkKind) (name : Nat) (data : List Byte) : State :=
    s.onKernel k.seq fun k => k.parkAt c.ref ⟨k.seq, c.ref, kind, name, r.status, data, r.op, r.part⟩
  match c.op? r.op, c.walkers.find? fun w => w.op == r.op with
  | some o, none =>
    if o.stale.contains r.part then on fun c => c.dropStale r.op r.part
    else keep (if r.data.isEmpty then .notice else .oldValue) (o.hnd.getD o.f.tO.toNat) r.data
  | o, some w =>
    if 32 < r.data.length ∧ w.state ≠ 3 then on fun c => c.onWalkerOp w.op fun w => { w with redo := w.redo ++ [r.part] }
    else keep .notice ((o.bind (·.hnd)).getD 0) (if w.state = 3 then [] else r.data)
  | none, none => s

/-- REMOTE_COMPLETION: the reply reaches its operation, its walker, or the reply area of a pre-empted kernel (R181, R356). A reply to
an abandoned operation is dropped (R342). -/
def execRemoteCompletion (r : Reply) (s : State) : Result :=
  .next (
    let back := s.core.ref
    let r := { r with core := s.redirect r.core r.op }
    let s := s.focus r.core
    match s.core.walkers.find? (fun wk => wk.op == r.op), s.core.op? r.op with
    | some wk, _ => (s.walkerReply wk r).focus back
    | none, some o => (if o.stale.contains r.part then s.mapCore fun c => c.dropStale r.op r.part else s.replyAt o r).focus back
    | none, none =>
      let s := s.focus back
      let mine (c : Core) : Bool := c.ops.any (fun o => o.id == r.op) || c.walkers.any fun wk => wk.op == r.op
      match s.kernels.find? fun k => k.phase == .preempted && (k.savedCore? r.core).any mine with
      | some k => match k.savedCore? r.core with
        | some c => s.park k c r
        | none => s
      | none => s)

/-- YARD_LOOKUP_REPLY: to a frozen core, or to a copy engine's held access (R82, R85, R168, R323). -/
def execYardLookupReply (op : Option Nat) (s : State) : Result :=
  .next (match op with
    | none => yardReplyCore s
    | some id => match s.core.op? id with
      | some o => if o.stage = CStage.held then
          (s.mapCore fun c => c.onOp id fun o => { o with parts := 2 }) else s
      | none => s)

/-! ## What goes on without an event of its own -/

/-- An operation of the core in focus moved on where nothing holds it any more. -/
def State.pumpOp (s : State) (id : Nat) : State :=
  match s.core.op? id with
  | none => s
  | some o => match o.stage with
    | .held => if 0x30 ≤ o.opc ∧ o.opc ≤ 0x32 ∧ o.parts = 1 then s else s.tryStart o
    | .moving =>
      if (o.opc = 0x78 ∨ o.opc = 0x79) ∧ o.parts = 0 ∧ s.core.coversOver o then
        (s.mapCore fun c => c.onOp id fun o => { o with parts := 1 }).after 0 (some s.core.ref) (.fenceComplete id)
      else if !o.accs.isEmpty ∧ o.opc ≠ 0x43 ∧ o.opc ≠ 0x44 ∧ s.mayLeave o then s.sendGet o
      else s
    | .localDone =>
      if !o.released || o.drained then s
      else if o.opc = 0x43 ∨ o.opc = 0x44 then
        if (o.parts ≠ 0 ∧ o.accs.isEmpty) ∨ s.awaitsPost o ∨ !s.mayLeave o ∨ (!s.core.coversOver o ∧ o.accs.any fun a => a.node != s.node.toNat) then s
        else s.sendPut o
      else if isEpoch o.opc ∧ o.opc ≠ 0x40 then s.advanceEpoch o
      else s
    | .queued => s

/-- Every operation of the core in focus moved on. -/
def State.pump (s : State) : State := (s.core.ops.map (·.id)).foldl State.pumpOp s

end Sys2Proof.Machine
end

