-- ==== Sys2Proof/Machine/Release.lean ====
section
/-! DEFINITION. The release of withheld effects and the brace (R152, R176, R195, R337, R338, R348), and BRACE and TMARK as rows of
the table. -/

namespace Sys2Proof.Machine

/-- The consumed entries of the receive queues are freed (R195). -/
def Core.freeEntries (c : Core) : Core := { c with queues := c.queues.map fun q => (q.1, q.2.filter fun e => !e.used) }

/-- The trigger table at the release of a CTRIG or a CTDIS: the entry is armed, its handle pending, or the entry is freed (R188). The
status of the CTRIG is kept for its token (R175). At the release of a WFENCE its agent's FI and OPEN change (R247), at that of a COLL its
deadline runs and what has come before it counts (R197, R290). [DEDUCED: log 89] -/
def State.releaseTable (s : State) (o : COp) : State :=
  if o.opc = 0x45 then s.releaseFence o
  else if o.opc = 0x65 then
    let r := s.postTrigger o
    r.1.mapCore fun c => c.onOp o.id fun o => { o with status := r.2 }
  else if o.opc = 0x66 ∧ o.x.toNat < 256 then s.mapCore fun c => c.disarm o.x.toNat
  else if o.opc = 0x80 then s.enterWalker o
  else s

/-- What a release lets go on: an epoch request that is posted already waits for the end of the core's turn, as in any cc. -/
def State.pumpReleased (s : State) (id : Nat) : State :=
  match s.core.op? id with
  | some o => if isEpoch o.opc ∧ o.stage = CStage.localDone then s else s.pumpOp id
  | none => s

/-- The withheld effects of the core in focus are released in issue order (R152, R176), the advances of STEP among them (R96), which
take effect as the bundle issues (R309). -/
def State.releaseOps (s : State) : State :=
  let ids := (s.core.ops.filter fun o => o.outward && !o.released).map (·.id)
  let s := s.mapCore fun c =>
    { c with ops := c.ops.map (fun (o : COp) => if o.outward && !o.released then { o with released := true, relAt := s.now } else o), steps := 0,
             stepsOut := c.stepsOut + c.steps }
  let s := ids.foldl (fun s id => match s.core.op? id with
    | some o =>
      let s := s.releaseTable o
      if o.stage ≠ CStage.localDone then s
      else if o.opc < 0x40 ∧ o.empty then s.mapCore fun c => c.finishDrain id
      else if o.opc < 0x40 then s.scheduleDrain o
      else s
    | none => s) s
  let s := s.core.ops.foldl State.setPromise s
  (s.core.ops.map (·.id)).foldl State.pumpReleased s

/-- A release by a slot operation, at its issue (R89, R338). -/
def State.release (s : State) : State := s.releaseOps.addSteps s.core.ref

/-- The brace (R337, R338): release, freed entries, and in kernel mode the copies and a fresh log. -/
def State.doBrace (s : State) : State :=
  (s.releaseOps.mapCore fun c =>
    let c := { c.freeEntries with braced := true }
    if c.mode then c else c.startInterval).settle

/-- BRACE. -/
def execBrace (s : State) : Result := .next s.doBrace

/-- TMARK: a marker with lc0 as it stood before the bundle (R218). -/
def execTmark (s : State) : Result := .next (s.trace 1 ((s.core.rlc 0).toNat % 65536) s.core.pos)

/-! ## Waits that only a withheld release could end (R93, R174) -/

/-- Whether an operation's local completion, or with `acc` its acceptance, needs a release of this core that has not happened. -/
def Core.needsRelease (c : Core) : Nat → Bool → Nat → Bool
  | 0, _, _ => false
  | n + 1, acc, id =>
    match c.mq.find? fun o => o.id == id with
    | some o =>
      o.waits.any (fun w => c.isOpen w && c.needsRelease n false w) ||
        c.mq.any fun p => decide (p.id < id) && !p.started && c.needsRelease n false p.id
    | none => match c.op? id with
      | none => false
      | some o =>
        if o.stage == .localDone then false
        else
          let accept := o.stage == .queued && ((c.startsBefore o).any (fun p => !p.released) || o.waits.any (fun w => c.isOpen w && c.needsRelease n false w) ||
            c.ops.any fun p => decide (p.id < id) && p.f.unit == o.f.unit && p.stage == .queued && c.needsRelease n true p.id)
          if acc then accept
          else
            accept || (awaitsRelease o.opc && !o.released) || c.heldBehind o ||
              (isAccess o.opc && ((c.routeBefore o).any fun p => c.needsRelease n false p.id)) ||
              ((o.opc == 0x78 || o.opc == 0x79 || o.opc == 0x63 || o.opc == 0x71) && c.ops.any fun p => o.covers.contains p.id &&
                ((p.outward && !p.drained && !p.released) || (p.stage != .localDone && c.needsRelease n false p.id)))

/-- R93 for a token. -/
def Core.tokenWithheld (c : Core) (t : Nat) : Bool :=
  let k := c.rt t
  !k.done && c.needsRelease (c.ops.length + c.mq.length + 1) false k.owner

/-- R93 for a handle: local completion, or remote completion, which a withheld effect never has. -/
def Core.handleWithheld (c : Core) (n : Nat) (remote : Bool) : Bool :=
  let h := c.rc n
  match c.op? h.owner with
  | none => false
  | some o =>
    (h.st == .pending || (remote && h.st == .localDone)) &&
      ((remote && o.outward && !o.released) || c.needsRelease (c.ops.length + c.mq.length + 1) false o.id)

/-- WAIT-WITHHELD (R73). -/
def withheldTrap (sl : Slot) (n : Nat) (handle : Bool) : Trap := ⟨0x0007, sl, n ||| bit handle <<< 8⟩

end Sys2Proof.Machine
end

