-- ==== Sys2Proof/Machine/Control.lean ====
section
/-! DEFINITION. Control (R68, R87 to R89): branches, calls, hardware loops, HALT, TRAP, TRET and YIELD, with CORE_HALTED. -/

namespace Sys2Proof.Machine

/-! ## Branches -/

/-- Whether a target's segment exists and lies on this side of the handler boundary (R67, R68). -/
def State.targetOk (s : State) (p : Position) : Bool :=
  match s.mine with
  | none => false
  | some k => decide (p.seg < k.img.segs.length) && ((some p.seg == k.img.handler) == (some s.core.pos.seg == k.img.handler))

/-- Reason 0x0C at the bundle the core stands at (R68, R70). [DEDUCED: log 21] -/
def State.badTarget (s : State) : Trap := Trap.encoding ⟨0x0C, 0xFF, .s⟩ s.core.pos.unit

/-- A taken branch: the next bundle is the target's; its offset is checked when it is known (R68, R216). -/
def State.branch (s : State) (p : Position) (ret : Bool) : State :=
  s.mapCore fun c => { c with npos := some p, src := some (c.pos, ret) }

/-- The trap a taken branch raises at once. -/
def branchTrap (taken : Bool) (p : Position) (s : State) : Option Trap := if taken && !s.targetOk p then some s.badTarget else none

/-- Whether BR and CALL are taken (R47, R87). -/
def brTaken (f : BForm) (s : State) : Bool := s.core.rp f.pg.toNat != f.ps

/-- The target of a B form. -/
def brTarget (f : BForm) (s : State) : Position := targetOf s.core.pos.seg f.tgt

/-- The trap BR and CALL take, if any. -/
def brTrap (f : BForm) (s : State) : Option Trap := branchTrap (brTaken f s) (brTarget f s) s

/-- BR. -/
def execBr (f : BForm) (s : State) : Result :=
  .next (s.orTrap (brTrap f s) fun s => if brTaken f s then s.branch (brTarget f s) false else s)

/-- The trap JMP takes, if any. -/
def jmpTrap (f : BForm) (s : State) : Option Trap := branchTrap true (brTarget f s) s

/-- JMP. -/
def execJmp (f : BForm) (s : State) : Result := .next (s.orTrap (jmpTrap f s) fun s => s.branch (brTarget f s) false)

/-- CALL: s63 takes the position of the following bundle. -/
def execCall (f : BForm) (s : State) : Result :=
  .next (s.orTrap (brTrap f s) fun s =>
    if brTaken f s then
      let r := s.nextPos.word
      (s.mapCore fun c => c.later .s 1 [.s 63 r]).branch (brTarget f s) false
    else s)

/-- The position in a register (R17). -/
def posOf (x : W64) : Position := ⟨x.toNat >>> 16, x.toNat % 65536⟩

/-- The trap RET takes, if any: bits [63:42] must be zero (R87). -/
def retTrap (f : RForm) (s : State) : Option Trap :=
  let x := s.core.rs f.sa.toNat
  if !s.core.rp f.pg.toNat then none
  else if field 63 42 x.toNat ≠ 0 then some s.badTarget else branchTrap true (posOf x) s

/-- RET. -/
def execRet (f : RForm) (s : State) : Result :=
  guarded (s.core.rp f.pg.toNat) s fun s => s.orTrap (retTrap f s) fun s => s.branch (posOf (s.core.rs f.sa.toNat)) true

/-- LOOP (R88): the low 32 bits of s[SA] plus the zero-extended immediate. -/
def execLoop (f : IForm) (s : State) : Result :=
  guarded (s.core.rp f.pg.toNat) s fun s => s.mapCore fun c =>
    c.later .s 1 [.lc f.sd.toNat (BitVec.ofNat 32 ((c.rs f.sa.toNat).toNat + f.imm.toNat))]

/-- LEND is taken while its counter is above 1 (R88). -/
def lendTaken (f : BForm) (s : State) : Bool := decide (1 < (s.core.rlc (f.pg.toNat % 4)).toNat)

/-- The trap LEND takes, if any. -/
def lendTrap (f : BForm) (s : State) : Option Trap := branchTrap (lendTaken f s) (brTarget f s) s

/-- LEND. -/
def execLend (f : BForm) (s : State) : Result :=
  .next (s.orTrap (lendTrap f s) fun s =>
    let n := f.pg.toNat % 4
    let x := s.core.rlc n
    if lendTaken f s then (s.mapCore fun c => c.later .s 1 [.lc n (x - 1)]).branch (brTarget f s) false
    else s.mapCore fun c => c.later .s 1 [.lc n 0])

/-! ## HALT, TRAP, TRET, YIELD -/

/-- HALT: the withheld effects are released and the core goes to its halt (R89, R338). -/
def execHalt (f : RForm) (s : State) : Result :=
  guarded (s.core.rp f.pg.toNat) s fun s =>
    (s.release.mapCore fun c => { c.freeEntries with run := .halting })

/-- Every token is done and every handle complete or idle (R89). -/
def Core.quietNow (c : Core) : Bool :=
  c.tok.all (fun t => t.2.done) && c.hnd.all fun h => h.2.st == .complete || h.2.st == .idle

/-- CORE_HALTED: the errors that were never awaited are counted, and the kernel's retirement may be due (R24, R89, R397). -/
def execCoreHalted (s : State) : Result :=
  .next (
    if s.core.run = RunState.halting ∧ s.core.quietNow ∧ s.core.mq = [] then
      ((s.trace 8 0 s.core.pos).mapCore fun c => { (c.loseAll s.now false) with run := .halted, stores := [], npos := none }).after 0 none
        (.kernelRetirement s.core.kernel)
    else s)

/-- The trap TRAP takes: SOFTWARE with its code. -/
def trapTrap (f : IForm) (s : State) : Option Trap :=
  if s.core.rp f.pg.toNat then some ⟨0x0004, .s, f.imm.toNat⟩ else none

/-- TRAP. -/
def execTrap (f : IForm) (s : State) : Result := .next (s.orTrap (trapTrap f s) id)

/-- The trap TRET takes: ILLEGAL-RETURN in kernel mode. [DEDUCED: log 95] -/
def tretTrap (f : RForm) (s : State) : Option Trap :=
  if s.core.rp f.pg.toNat && !s.core.mode then some ⟨0x0005, .s, 0⟩ else none

/-- TRET in handler mode: MALFORMED-RETURN, or the handler's effects are released and issue resumes at TRAPPC (R89, R338, R348). -/
def tretEffect (s : State) : State :=
  if saveMalformed s.core.ksave then s.contextFault 0x0102 ⟨0, .s, 0⟩
  else match s.mine with
    | none => s
    | some _ => ((s.trace 6 0 s.core.pos).release).mapCore fun c =>
        let p := posOf c.trapPc
        { (c.freeEntries.restoreStatus) with npos := some p, reissue := true }

/-- TRET. -/
def execTret (f : RForm) (s : State) : Result :=
  guarded (s.core.rp f.pg.toNat) s fun s => s.orTrap (tretTrap f s) tretEffect

/-- YIELD: with a pre-emption pending, the core issues nothing after this bundle and stops (R89, R352). -/
def execYield (f : RForm) (s : State) : Result :=
  guarded (s.core.rp f.pg.toNat) s fun s =>
    match s.mine with
    | some k => if k.phase == .checkpointing && !s.core.mode then s.mapCore fun c => { c with stopReq := true } else s
    | none => s

end Sys2Proof.Machine
end

