-- ==== Sys2Proof/Machine/Waits.lean ====
section
/-! DEFINITION. The waits on tokens and handles (R90 to R93), the end of a sleep, and the watchdog (R211). -/

namespace Sys2Proof.Machine

/-- The trap TWAIT and SLEEPT take at issue: WAIT-WITHHELD. [DEDUCED: log 87] -/
def tokenWaitTrap (f : RForm) (s : State) : Option Trap :=
  if s.core.rp f.pg.toNat && s.core.tokenWithheld f.sa.toNat then some (withheldTrap .s f.sa.toNat false) else none

/-- TWAIT. -/
def execTwait (f : RForm) (s : State) : Result :=
  guarded (s.core.rp f.pg.toNat) s fun s => s.orTrap (tokenWaitTrap f s) fun s =>
    if (s.core.rt f.sa.toNat).done then s.endTokenWait f.sa.toNat (s.core.rt f.sa.toNat)
    else s.mapCore fun c => c.waitOn f.sa.toNat (.waitToken f.sa.toNat)

/-- TTEST. -/
def execTtest (f : RForm) (s : State) : Result :=
  guarded (s.core.rp f.pg.toNat) s fun s => s.mapCore fun c => c.later .s 1 [.p f.sd.toNat (c.rt f.sa.toNat).done]

/-- A sleep that is over: the token's status, or a freeze until it is done (R90, R209). -/
def State.sleepOver (s : State) (t : Nat) (k : Token) : State :=
  if k.done then s.endTokenWait t k
  else s.mapCore fun c => { c with run := .frozen (.token t), waited := k, frozenFor := 0 }

/-- SLEEPT: the sleep lasts to the promise even if the token is done sooner (R90). -/
def execSleept (f : RForm) (s : State) : Result :=
  guarded (s.core.rp f.pg.toNat) s fun s => s.orTrap (tokenWaitTrap f s) fun s =>
    let t := f.sa.toNat
    let p := (s.core.rt t).promise.toNat
    if p ≤ s.now then s.sleepOver t (s.core.rt t)
    else s.mapCore fun c => c.waitOn t (.sleeping t)

/-- SLEEP_END. -/
def execSleepEnd (s : State) : Result :=
  .next (match s.core.run with
    | .sleeping t => if s.core.waited.promise.toNat ≤ s.now then s.sleepOver t s.core.waited else s
    | _ => s)

/-- TPROM: the promise as it stands, old or new (R205). -/
def execTprom (f : RForm) (s : State) : Result :=
  guarded (s.core.rp f.pg.toNat) s fun s => s.mapCore fun c => c.later .s 1 [.s f.sd.toNat (c.rt f.sa.toNat).promise]

/-- The trap WAITL takes at issue: WAIT-WITHHELD. -/
def waitlTrap (f : RForm) (s : State) : Option Trap :=
  if s.core.rp f.pg.toNat && s.core.handleWithheld f.sa.toNat false then some (withheldTrap .s f.sa.toNat true) else none

/-- WAITL. -/
def execWaitl (f : RForm) (s : State) : Result :=
  guarded (s.core.rp f.pg.toNat) s fun s => s.orTrap (waitlTrap f s) fun s =>
    if (s.core.rc f.sa.toNat).st = HState.pending then s.mapCore fun c => { c with run := .waitLocal f.sa.toNat } else s

/-- The trap WAITR takes at issue: WAIT-WITHHELD. -/
def waitrTrap (f : RForm) (s : State) : Option Trap :=
  if s.core.rp f.pg.toNat && s.core.handleWithheld f.sa.toNat true then some (withheldTrap .s f.sa.toNat true) else none

/-- WAITR. -/
def execWaitr (f : RForm) (s : State) : Result :=
  guarded (s.core.rp f.pg.toNat) s fun s => s.orTrap (waitrTrap f s) fun s =>
    match (s.core.rc f.sa.toNat).st with
    | .pending => s.mapCore fun c => { c with run := .waitRemote f.sa.toNat }
    | .localDone => s.mapCore fun c => { c with run := .waitRemote f.sa.toNat }
    | _ => s.endHandleWait f.sa.toNat

/-- TRAPINFO of PROMISE-MISSED (R73, R194): of several outstanding faults of the operation, or of its walker (R378), the first in the
order of its bytes.
[DESIGN CHOICE: log 115] -/
def State.missedInfo (s : State) (fz : Freeze) : Nat :=
  match fz with
  | .receive _ => 0x3F
  | .yard _ => 0x3F ||| 1 <<< 7
  | .token t =>
    let c := s.core
    let held := match c.op? c.waited.owner with | some o => if o.stage = CStage.held then o.faulted else [] | none => []
    let walks := (c.walkers.filter fun w => w.op == c.waited.owner).flatMap (·.pages)
    match held ++ walks with
    | p :: _ => t ||| 1 <<< 6 ||| (p * 256) <<< 8
    | [] => t

/-- WDOG_EXPIRY: PROMISE-MISSED once a freeze has lasted WDOG cc (R211); the freeze is over, with its one record (R218). -/
def execWdogExpiry (s : State) : Result :=
  .next (match s.core.run with
    | .frozen fz =>
      if s.core.frozenFor < s.core.wdog.toNat then s
      else
        let sl := match fz with | .receive _ => Slot.k | _ => Slot.s
        ((s.trace 3 (min s.core.frozenFor 65535) s.core.pos).mapCore fun c => { c with run := .running }).takeTrap ⟨0x0006, sl, s.missedInfo fz⟩
    | _ => s)

end Sys2Proof.Machine
end

