-- ==== Sys2Proof/Machine/SysRegs.lean ====
section
/-! DEFINITION. System registers, formats, STEP and the estimate (R17, R94 to R97). -/

namespace Sys2Proof.Machine

/-- A system register by number, zero-extended; STEP is read as the core sees it (R17, R94, R309). -/
def State.sysReg (s : State) (n : Nat) : W64 :=
  let c := s.core
  match n with
  | 0 => c.kstatus
  | 1 => c.ksave
  | 2 => c.trapPc
  | 3 => c.trapAt
  | 4 => c.trapSlot.setWidth 64
  | 5 => c.trapCause.setWidth 64
  | 6 => c.trapInfo
  | 8 => s.mcyc
  | 9 => s.stepSeen.1
  | 10 => c.kest
  | 11 => c.ftb.setWidth 64
  | 12 => c.ftsel.setWidth 64
  | 13 => c.partword.setWidth 64
  | 14 => BitVec.ofNat 64 (coreIdOf c.ref)
  | 15 => BitVec.ofNat 64 (bayOf c.ref)
  | 16 => s.node.setWidth 64
  | _ => c.wdog.setWidth 64

/-- GETSR. -/
def execGetsr (f : IForm) (s : State) : Result :=
  guarded (s.core.rp f.pg.toNat) s fun s =>
    let n := field 7 0 f.imm.toNat
    let x := s.sysReg n
    (if n = 9 then s.stepSeen.2 else s).mapCore fun c => c.later .s 1 [.s f.sd.toNat x]

/-- What SETSR writes; a read-only register ignores the write (R94). -/
def sysRegWrite (n : Nat) (x : W64) : List Dst :=
  match n with
  | 0 => [.kstatus x]
  | 1 => [.ksave x]
  | 11 => [.ftb (x.setWidth 6)]
  | 12 => [.ftsel (x.setWidth 2)]
  | _ => []

/-- SETSR. -/
def execSetsr (f : IForm) (s : State) : Result :=
  guarded (s.core.rp f.pg.toNat) s fun s => s.mapCore fun c =>
    let n := field 7 0 f.imm.toNat
    { c.later .s 1 (sysRegWrite n (c.rs f.sa.toNat)) with since := if n = 0 then {} else c.since }

/-- FTSET. -/
def execFtset (f : IForm) (s : State) : Result :=
  guarded (s.core.rp f.pg.toNat) s fun s => s.mapCore fun c =>
    c.later .s 1 [.ftb (f.imm.setWidth 6), .ftsel (BitVec.ofNat 2 (field 9 8 f.imm.toNat))]

/-- The trap FTLD takes, if any: the source is no legal shape word (R95). -/
def ftldTrap (f : RForm) (s : State) : Option Trap :=
  let x := s.core.rs f.sa.toNat
  if s.core.rp f.pg.toNat && !shapeLegal x.toNat then some ⟨0x0002, .s, x.toNat⟩ else none

/-- FTLD. -/
def execFtld (f : RForm) (s : State) : Result :=
  guarded (s.core.rp f.pg.toNat) s fun s => s.orTrap (ftldTrap f s) fun s => s.mapCore fun c =>
    c.later .s 1 [.fm f.sd.toNat ((c.rs f.sa.toNat).setWidth 32)]

/-- The trap STEPADV takes, if any: STEP-OWNER (R96). -/
def stepadvTrap (f : IForm) (s : State) : Option Trap :=
  let owner := match s.mine with | some k => k.stepo | none => false
  if s.core.rp f.pg.toNat && !owner then some ⟨0x000E, .s, f.imm.toNat⟩ else none

/-- STEPADV: withheld until the next brace (R96). -/
def execStepadv (f : IForm) (s : State) : Result :=
  guarded (s.core.rp f.pg.toNat) s fun s => s.orTrap (stepadvTrap f s) fun s => s.mapCore fun c =>
    { c with steps := c.steps + f.imm.toNat }

/-- KEST. -/
def execKest (f : RForm) (s : State) : Result :=
  guarded (s.core.rp f.pg.toNat) s fun s => s.mapCore fun c => c.later .s 1 [.kest (c.rs f.sa.toNat)]

end Sys2Proof.Machine
end

