-- ==== Sys2Proof/Machine/Remote.lean ====
section
/-! DEFINITION. The C-slot meanings of the window, atomic, counter, barrier and collective chapter (R173 to R198), and the
communication slot (R193 to R195). -/

namespace Sys2Proof.Machine

/-- WCREATE. -/
def execWcreate (f : CForm) (s : State) : Result := cExec 0x40 f s
/-- WFREE. -/
def execWfree (f : CForm) (s : State) : Result := cExec 0x41 f s
/-- WGET. -/
def execWget (f : CForm) (s : State) : Result := cExec 0x42 f s
/-- WPUT. -/
def execWput (f : CForm) (s : State) : Result := cExec 0x43 f s
/-- WACC. -/
def execWacc (f : CForm) (s : State) : Result := cExec 0x44 f s
/-- WFENCE. -/
def execWfence (f : CForm) (s : State) : Result := cExec 0x45 f s
/-- WPOST. -/
def execWpost (f : CForm) (s : State) : Result := cExec 0x46 f s
/-- WSTART. -/
def execWstart (f : CForm) (s : State) : Result := cExec 0x47 f s
/-- WCMPL. -/
def execWcmpl (f : CForm) (s : State) : Result := cExec 0x48 f s
/-- WWAIT. -/
def execWwait (f : CForm) (s : State) : Result := cExec 0x49 f s
/-- WLOCK. -/
def execWlock (f : CForm) (s : State) : Result := cExec 0x4A f s
/-- WUNLK. -/
def execWunlk (f : CForm) (s : State) : Result := cExec 0x4B f s
/-- WFAA. -/
def execWfaa (f : CForm) (s : State) : Result := cExec 0x60 f s
/-- WCAS. -/
def execWcas (f : CForm) (s : State) : Result := cExec 0x61 f s
/-- WSWAP. -/
def execWswap (f : CForm) (s : State) : Result := cExec 0x62 f s
/-- CNTINC. -/
def execCntinc (f : CForm) (s : State) : Result := cExec 0x63 f s
/-- CNTRD. -/
def execCntrd (f : CForm) (s : State) : Result := cExec 0x64 f s
/-- CTRIG. -/
def execCtrig (f : CForm) (s : State) : Result := cExec 0x65 f s
/-- CTDIS. -/
def execCtdis (f : CForm) (s : State) : Result := cExec 0x66 f s
/-- BARINIT. -/
def execBarinit (f : CForm) (s : State) : Result := cExec 0x70 f s
/-- BARARR. -/
def execBararr (f : CForm) (s : State) : Result := cExec 0x71 f s
/-- BARWAIT. -/
def execBarwait (f : CForm) (s : State) : Result := cExec 0x72 f s
/-- BAYADD. -/
def execBayadd (f : CForm) (s : State) : Result := cExec 0x73 f s
/-- BAYCAS. -/
def execBaycas (f : CForm) (s : State) : Result := cExec 0x74 f s
/-- COLL. -/
def execColl (f : CForm) (s : State) : Result := cExec 0x80 f s
/-- COLLQ. -/
def execCollq (f : CForm) (s : State) : Result := cExec 0x81 f s

/-! ## The communication slot -/

/-- Whether a K slot's lane acts: its course is enabled and its guard bit is 1 (R193). -/
def kActs (c : Core) (f : KForm) (l : Nat) : Bool := bitOf (l / 16) f.cm.toNat && bitOf l (c.rq f.qg.toNat).toNat

/-- The circuit of a channel that leaves a core. -/
def Kernel.outgoing (k : Kernel) (idx ch : Nat) : Option CircuitPlan := k.img.circuits.find? fun p => p.src == idx && p.ch == ch

/-- A SEND's entry on its way: it arrives at issue + L, or later where the last SEND was less than I cc ago (R194, R257); one for another
module leaves with the core index it goes to. [DESIGN CHOICE: log 147] -/
def State.sendEntry (s : State) (f : KForm) (k : Kernel) (p : CircuitPlan) : State :=
  let c := s.core
  let ch := f.ch.toNat
  let last := (c.lastSend.find? fun x => x.1 == ch).map (·.2)
  let start := match last with | some t => max s.now (t + p.interval) | none => s.now
  let present := maskOf ((List.range 128).filter fun l => kActs c f l)
  let lanes := (List.range 128).map fun l => c.rv f.vr.toNat l
  let dst := k.cores.find? fun r => (s.coreAt r).idx == p.dst
  let s := s.mapCore fun c => { c with lastSend := (c.lastSend.filter fun x => x.1 != ch) ++ [(ch, start)],
                                       brace := if c.mode then c.brace else { c.brace with sent := true } }
  match dst with
  | some r => s.after (start - s.now + p.lat) none (.circuitEntryArrival ⟨r, ch, present, lanes⟩)
  | none => s.emit (.circuitEntryArrival ⟨p.dst, ch, present, lanes⟩)

/-- SEND: executed once, however often its bundle issues again (R195). -/
def execSend (f : KForm) (s : State) : Result :=
  .next (match s.mine with
    | none => s
    | some k => match k.outgoing s.core.idx f.ch.toNat with
      | none => s
      | some p => if !s.core.mode && s.core.brace.sent then s else s.sendEntry f k p)

/-- The oldest entry of a circuit's queue that has not been consumed (R194, R195). -/
def Core.entry (c : Core) (ch : Nat) : Option QEntry :=
  ((c.queues.find? fun q => q.1 == ch).map (·.2)).getD [] |>.find? fun e => !e.used

/-- The first entry not yet consumed marked. -/
def markUsed : List QEntry → List QEntry
  | [] => []
  | e :: rest => if e.used then e :: markUsed rest else { e with used := true } :: rest

/-- The oldest entry consumed; it stays in the queue until the next brace. -/
def Core.consume (c : Core) (ch : Nat) : Core := { c with queues := c.queues.map fun q => if q.1 = ch then (ch, markUsed q.2) else q }

/-- The combination that a receive makes of a lane, and its latency. -/
structure RecvKind where
  lat : Nat
  op : W32 → W32 → W32 × Flags

/-- RECV takes the entry's lane. -/
def recvPlain : RecvKind := ⟨2, fun _ x => (x, {})⟩
/-- RECVADD in f32. -/
def recvAdd : RecvKind := ⟨4, fun v x => let r := addF32 v.toNat x.toNat; (BitVec.ofNat 32 r.1, r.2)⟩
/-- RECVMAX in f32. -/
def recvMax : RecvKind :=
  ⟨4, fun v x =>
    let r := shF32.round false ((shF32.decodeIeee v.toNat).max2 (shF32.decodeIeee x.toNat))
    (BitVec.ofNat 32 r.1, r.2)⟩

/-- A receive with an entry present. -/
def Core.receive (c : Core) (f : KForm) (k : RecvKind) (e : QEntry) : Core :=
  let ls := ((List.range 128).filter fun l => kActs c f l && bitOf l e.present.toNat).map fun l =>
    (l, k.op (c.rv f.vr.toNat l) (e.lanes.getD l 0))
  (c.consume f.ch.toNat).later .k k.lat [.v f.vr.toNat (ls.map fun x => (x.1, x.2.1))] (Flags.join (ls.map fun x => x.2.2))

/-- The trap a receive takes: SCHEDULE-VIOLATION with STRICT and an empty queue (R194, R213). -/
def recvTrap (f : KForm) (s : State) : Option Trap :=
  if (s.core.entry f.ch.toNat).isNone && s.core.strict then some ⟨0x0003, .k, f.ch.toNat⟩ else none

/-- A receive: with an empty queue the core freezes until an entry arrives (R194). -/
def recvExec (i : Instr) (f : KForm) (k : RecvKind) (s : State) : Result :=
  .next (s.orTrap (recvTrap f s) fun s => match s.core.entry f.ch.toNat with
    | some e => s.mapCore fun c => c.receive f k e
    | none => s.mapCore fun c => { c with run := .frozen (.receive i), frozenFor := 0 })

/-- RECV. -/
def execRecv (f : KForm) (s : State) : Result := recvExec (.recv f) f recvPlain s
/-- RECVADD. -/
def execRecvadd (f : KForm) (s : State) : Result := recvExec (.recvadd f) f recvAdd s
/-- RECVMAX. -/
def execRecvmax (f : KForm) (s : State) : Result := recvExec (.recvmax f) f recvMax s

/-- The form and kind of a receive. -/
def recvOf : Instr → Option (KForm × RecvKind)
  | .recv f => some (f, recvPlain)
  | .recvadd f => some (f, recvAdd)
  | .recvmax f => some (f, recvMax)
  | _ => none

/-- A receive freeze that ends with the entry that has come. -/
def State.endReceive (s : State) (ch : Nat) : State :=
  match s.core.run with
  | .frozen (.receive i) => match recvOf i with
    | some (f, k) =>
      if f.ch.toNat ≠ ch then s
      else match s.core.entry ch with
        | some e => s.thaw.mapCore fun c => c.receive f k e
        | none => s
    | none => s
  | _ => s

/-- CIRCUIT_ENTRY_ARRIVAL: queued, or lost at a full queue with RECEIVE-OVERRUN (R194). -/
def execCircuitEntryArrival (m : CircuitMsg) (s : State) : Result :=
  .next (
    let back := s.core.ref
    let s := s.focus m.core
    let q := ((s.core.queues.find? fun q => q.1 == m.ch).map (·.2)).getD []
    if s.core.kernel = 0 then s.focus back
    else if 4 ≤ q.length then (s.contextFault 0x0104 ⟨0, .k, m.ch⟩).focus back
    else
      let e : QEntry := ⟨m.present, m.lanes, false⟩
      ((s.mapCore fun c => { c with queues := (c.queues.filter fun q => q.1 != m.ch) ++ [(m.ch, q ++ [e])] }).endReceive m.ch).focus back)

end Sys2Proof.Machine
end

