-- ==== Sys2Proof/Machine/Yard.lean ====
section
/-! DEFINITION. The relay engine (R320, R324 to R328): batches from their turn to their finish, and epoch advances. -/

namespace Sys2Proof.Machine

/-- The event of a region's first job: a batch's turn, or an advance. -/
def State.nextJob (s : State) (r : RegKey) : State :=
  match s.region? r with
  | none => s
  | some g => match g.jobs with
    | [] => s
    | .batch b :: _ => if b.step.isNone then s.after 0 none (.relayBatchTurn r) else s
    | .advance _ _ :: _ => s.after 0 none (.epochAdvance r)

/-- A job submitted to a region; it begins at once where it is the only one. -/
def State.submitJob (s : State) (r : RegKey) (j : YardJob) : State :=
  match s.region? r with
  | none => s
  | some g =>
    let s := s.onRegion r fun g => { g with jobs := g.jobs ++ [j] }
    if g.jobs.isEmpty then s.nextJob r else s

/-- The first job over, and the next one's turn. -/
def State.endJob (s : State) (r : RegKey) : State := (s.onRegion r fun g => { g with jobs := g.jobs.tail }).nextJob r

/-- A region's running batch changed. -/
def Region.onBatch (g : Region) (f : Batch → Batch) : Region :=
  { g with jobs := match g.jobs with | .batch b :: rest => .batch (f b) :: rest | l => l }

/-- The running batch. -/
def Region.batch? (g : Region) : Option Batch := match g.jobs with | .batch b :: _ => some b | _ => none

/-- The first offending move of a batch with the status of its refusal, or none (R325). [DEDUCED: log 53] -/
def State.batchRefusal (s : State) (g : Region) (b : Batch) : Option (Nat × Nat) :=
  let ctx := g.key.ctx
  let size (src : Nat) : Nat := s.objBytes ctx src
  let bad (i : Nat) (m : Nat × Nat) : Bool :=
    let n := size m.1
    let inside (a : Nat) : Bool := decide (g.base ≤ a) && decide (a + n ≤ g.base + g.len)
    s.objState ctx m.1 != 1 || n == 0 || m.1 % 16 != 0 || m.2 % 16 != 0 || !inside m.1 || !inside m.2 ||
      b.moves.any (fun q => rangesMeet m.2 n q.1 (size q.1)) ||
      (b.moves.take i).any (fun q => rangesMeet m.2 n q.2 (size q.1)) ||
      rangesMeet m.2 n g.rwlo (g.rwhi - g.rwlo)
  let sealed : Bool := match s.ctx? ctx with
    | some x => x.leaves.any fun l => leafSeal l.word && rangesMeet (l.page * 2 ^ 16) (pageBytes (leafSz l.word)) g.base g.len
    | none => true
  let full := decide (g.fcap < g.table.length + b.moves.length)
  let offending := ((List.range b.moves.length).filter fun i => sealed || (b.moves[i]?).any (bad i) || (full && decide (g.fcap ≤ g.table.length + i)))
  offending.head?.map fun i => (i, if full then 4 else 2)

/-- A forwarding entry installed, and the entries that named its source rewritten (R324). -/
def Region.install (g : Region) (src dst : Nat) : Region :=
  { g with table := (g.table.map fun e => if e.tgt = src then { e with tgt := dst } else e) ++ [⟨src, dst, g.epoch⟩] }

/-- The flip (R326 step 1): each unpinned object is marked relaying and forwarded, and the window widened. [DEDUCED: log 99] -/
def State.flip (s : State) (r : RegKey) (b : Batch) : State :=
  let st := b.moves.foldl (fun (st : State × List Move) m =>
    let s := st.1
    let n := s.objBytes r.ctx m.1
    if s.pinCount r.ctx m.1 ≠ 0 then (s, st.2 ++ [⟨m.1, m.2, n, true, []⟩])
    else
      let s := (s.setObjState r.ctx m.1 2).onRegion r fun g =>
        let g := g.install m.1 m.2
        if g.rwhi ≤ g.rwlo then { g with rwlo := m.1, rwhi := m.1 + n }
        else { g with rwlo := min g.rwlo m.1, rwhi := max g.rwhi (m.1 + n) }
      (s, st.2 ++ [⟨m.1, m.2, n, false, []⟩])) (s, [])
  st.1.onRegion r fun g => g.onBatch fun b => { b with step := some .fence, active := st.2 }

/-- The operations of an engine, accepted and not over, with a byte in a moved source range, as they were resolved (R326 step 2). -/
def Core.drainOf (c : Core) (u : CUnit) (ms : List Move) : List Nat :=
  (c.ops.filter fun o => o.f.unit == u && o.stage != .queued && !(o.stage == .localDone && (o.drained || !o.outward)) &&
    (o.runs.1 ++ o.runs.2).any fun r => ms.any fun m => !m.skipped && rangesMeet r.1 r.2 m.src m.size).map (·.id)

/-- The cores of a context's kernels that are on the module. -/
def State.coresOf (s : State) (ctx : Nat) : List Nat :=
  (s.kernels.filter fun k => k.ctx == ctx && k.phase != .retired && k.phase != .preempted && k.phase != .waiting).flatMap (·.cores)

/-- The copy begins once every engine has acknowledged; a block takes a read of memory at least (R316, R326). [DEDUCED: log 143] -/
def State.fenceOver (s : State) (r : RegKey) : State :=
  match (s.region? r).bind Region.batch? with
  | some b =>
    if b.step = some .fence ∧ b.acks.isEmpty then
      (s.onRegion r fun g => g.onBatch fun b => { b with step := some .copy }).after 220 none (.relayCopy r)
    else s
  | none => s

/-- RELAY_BATCH_TURN: checked, then refused with a relay record or admitted: the flip, and the flip fence (R325, R326). -/
def execRelayBatchTurn (r : RegKey) (s : State) : Result :=
  .next (match s.region? r with
    | none => s
    | some g => match g.batch? with
      | none => s
      | some b =>
        if b.step.isSome then s
        else match s.batchRefusal g b with
          | some (i, st) => (s.journal ⟨0, .relay, st, r.ctx, b.tag, b.seq, .relay r.rid i 0⟩).endJob r
          | none =>
            let s := s.flip r b
            let ms := match (s.region? r).bind Region.batch? with | some b => b.active | none => []
            let acks := (s.coresOf r.ctx).flatMap fun c => [(c, 0, (s.coreAt c).drainOf .c0 ms), (c, 1, (s.coreAt c).drainOf .c1 ms)]
            let acks := acks.filter fun a => !a.2.2.isEmpty
            let s := s.onRegion r fun g => g.onBatch fun b => { b with acks := acks }
            let s := acks.foldl (fun s a => s.after 1 none (.flipFenceAck r a.1 (if a.2.1 = 0 then .c0 else .c1))) s
            s.fenceOver r)

/-- FLIP_FENCE_ACK: an engine whose listed accesses are over acknowledges; one of a core no longer running the context does at once
(R326). -/
def execFlipFenceAck (r : RegKey) (core : Nat) (u : CUnit) (s : State) : Result :=
  .next (match (s.region? r).bind Region.batch? with
    | none => s
    | some b =>
      let n := match u with | .c0 => 0 | .c1 => 1
      match b.acks.find? fun a => a.1 == core && a.2.1 == n with
      | none => s
      | some a =>
        let c := s.coreAt core
        let open_ (id : Nat) : Bool := match c.op? id with
          | some o => !(o.stage == .localDone && (o.drained || !o.outward))
          | none => false
        if (s.coresOf r.ctx).contains core && a.2.2.any open_ then s.after 1 none (.flipFenceAck r core u)
        else (s.onRegion r fun g => g.onBatch fun b =>
          { b with acks := b.acks.filter fun x => !(x.1 == core && x.2.1 == n) }).fenceOver r)

/-- The poison of one 64-byte burst of a new copy, named by its first address: it is poisoned where a byte of the old copy in it is,
clean where the object covers it whole with clean bytes, and as it was otherwise. [DESIGN CHOICE: log 144] -/
def State.carryPoison (s : State) (ctx : Nat) (m : Move) (va : Nat) : State :=
  let within := (List.range 64).filterMap fun j =>
    if decide (m.dst ≤ va + j) && decide (va + j < m.dst + m.size) then some (va + j - m.dst) else none
  match within with
  | [] => s
  | k :: _ => match s.phys? ctx (m.dst + k) with
    | none => s
    | some b =>
      if within.any fun j => (s.phys? ctx (m.src + j)).any s.poisoned then
        (if s.poisoned b then s else { s with poison := b / 64 :: s.poison })
      else if within.length = 64 then { s with poison := s.poison.filter (· != b / 64) }
      else s

/-- One block of an object copied; the header's block takes STATE 1 and PINC 0, its reserved bits zero (R322, R326 step 3). A leased
line is written back first (R255). -/
def State.copyBlock (s : State) (ctx : Nat) (m : Move) (i : Nat) : State :=
  let n := min 512 (m.size - 512 * i)
  let kvs := (List.range n).filterMap fun j =>
    match s.phys? ctx (m.src + 512 * i + j), s.phys? ctx (m.dst + 512 * i + j) with
    | some a, some b =>
      let x := if i = 0 ∧ j = 6 then 0 else if i = 0 ∧ j = 7 then 1 else s.memByte a
      some (b, x)
    | _, _ => none
  let lines := ((List.range n).flatMap fun j => [m.src + 512 * i + j, m.dst + 512 * i + j]).filterMap fun va => (s.phys? ctx va).map (· / 256)
  let lo := (m.dst + 512 * i) / 64
  let s := (s.writeBack lines.dedup).memWrite kvs
  ((List.range ((m.dst + 512 * i + n - 1) / 64 + 1 - lo)).map fun j => (lo + j) * 64).foldl (fun s va => s.carryPoison ctx m va) s

/-- The next block: one an access awaits first, else the lowest that is left. -/
def Batch.nextBlock (b : Batch) : Option (Nat × Nat) :=
  let left (m : Move) : List Nat := if m.skipped then [] else (List.range (ceilDiv m.size 512)).filter fun i => !m.copied.contains i
  match b.demand.find? fun d => b.active.any fun m => m.dst == d.1 && (left m).contains d.2 with
  | some d => some d
  | none => (b.active.find? fun m => !(left m).isEmpty).bind fun m => ((left m).head?).map fun i => (m.dst, i)

/-- RELAY_COPY: one block, and the finish after the last (R326). -/
def execRelayCopy (r : RegKey) (s : State) : Result :=
  .next (match (s.region? r).bind Region.batch? with
    | none => s
    | some b =>
      if b.step ≠ some .copy then s
      else match b.nextBlock with
        | none => (s.onRegion r fun g => g.onBatch fun b => { b with step := some .finish }).after 0 none (.relayFinish r)
        | some (dst, i) => match b.active.find? fun m => !m.skipped && m.dst == dst with
          | none => s
          | some m =>
            let (d, s) := s.free Config.work
            ((s.copyBlock r.ctx m i).onRegion r fun g => g.onBatch fun b =>
              { b with active := b.active.map fun q => if !q.skipped && q.dst == dst then { q with copied := q.copied ++ [i] } else q }).after
              (220 + d) none (.relayCopy r))

/-- RELAY_FINISH: source headers forwarded, and the relay record (R326 step 4). -/
def execRelayFinish (r : RegKey) (s : State) : Result :=
  .next (match (s.region? r).bind Region.batch? with
    | none => s
    | some b =>
      if b.step ≠ some .finish then s
      else
        let moved := b.active.filter fun m => !m.skipped
        let s := moved.foldl (fun s m => s.setObjState r.ctx m.src 3) s
        (s.journal ⟨0, .relay, 0, r.ctx, b.tag, b.seq, .relay r.rid moved.length (b.active.length - moved.length)⟩).endJob r)

/-! ## Epoch advances (R327, R341) -/

/-- A word that holds a reference into a region, resolved and tagged with an epoch; none for any other word. -/
def Region.heal (g : Region) (n : Nat) (w : W64) : Option W64 :=
  if w = 0 ∨ field 63 57 w.toNat ≠ 0 ∨ !(decide (g.base ≤ refAddr w) && decide (refAddr w < g.base + g.len)) then none
  else some (refWith w (g.forward (refAddr w)) n)

/-- The bytes of a word at consecutive pool keys healed. -/
def Region.healCells (g : Region) (n key : Nat) (l : List (Nat × Byte)) : List (Nat × Byte) :=
  match g.heal n (BitVec.ofNat 64 (natOf ((List.range 8).map fun i => Sparse.get 0 l (key + i)))) with
  | some w => Sparse.setAll 0 l (cellsAt key (bytesOf 8 w.toNat))
  | none => l

/-- A core's root ranges, their words in the granule records of its log, its h registers, what is about to land in them and their brace
copies healed; what an HLD is about to land keeps the old epoch (R327). -/
def Core.healRoots (c : Core) (g : Region) (n : Nat) (roots : List RootRange) : Core :=
  let keys := roots.flatMap fun r => (List.range (r.len / 8)).filterMap fun i => c.place (r.off + 8 * i)
  let c := keys.foldl (fun c k =>
    { c with pool := g.healCells n k c.pool,
             log := c.log.map fun l => match l with
               | .granule i m old => if k / 512 = m then .granule i m (g.healCells n k old) else l
               | l => l }) c
  let regs (l : List (Nat × W64)) : List (Nat × W64) := l.map fun kv => (kv.1, (g.heal n kv.2).getD kv.2)
  let land (p : Pending) : Pending :=
    { p with dst := p.dst.map fun d => match d with | .h m x => .h m ((g.heal n x).getD x) | d => d }
  { c with h := regs c.h, pend := c.pend.map land, left := c.left.map land, brace := { c.brace with h := regs c.brace.h } }

/-- The source range of a released entry filled with zeros, its leased lines written back first (R255, R327). -/
def State.releaseEntry (s : State) (ctx : Nat) (e : Forward) : State :=
  let as := (List.range (s.objBytes ctx e.src)).filterMap fun j => s.phys? ctx (e.src + j)
  ((s.writeBack (as.map (· / 256)).dedup).memStore (as.map fun a => (a, (0 : Byte)))).1

/-- EPOCH_ADVANCE (R327): roots and h registers, EPOCH and the window, the release of old entries, the completion record. -/
def execEpochAdvance (r : RegKey) (s : State) : Result :=
  .next (match s.region? r with
    | none => s
    | some g => match g.jobs with
      | .advance seq tag :: _ =>
        let n := (g.epoch + 1) % 4
        let ks := s.kernels.filter fun k => k.ctx == r.ctx && k.phase != .retired && k.phase != .waiting
        let s := ks.foldl (fun s k =>
          let s := if k.phase = .preempted then s.onKernel k.seq fun k => { k with saved := k.saved.map fun r => { r with core := r.core.healRoots g n k.roots } }
            else s
          if k.phase = .preempted then s else k.cores.foldl (fun s c => s.onCore c fun c => c.healRoots g n k.roots) s) s
        let old := g.table.filter fun e => e.bep == (n + 2) % 4
        let s := s.onRegion r fun g => { g with epoch := n, rwlo := 0, rwhi := 0, table := g.table.filter fun e => e.bep != (n + 2) % 4 }
        let s := old.foldl (fun s e => s.releaseEntry r.ctx e) s
        (s.journal ⟨0, .completion, 0, r.ctx, tag, seq, .empty⟩).endJob r
      | _ => s)

end Sys2Proof.Machine
end

