-- ==== Sys2Proof/Machine/Schedule.lean ====
section
/-! DEFINITION. Launches from their waiting to their end (R24, R28, R211, R214, R308, R350 to R358, R367, R368, R371 to R373, R391):
placement, the pre-emption decision, binding and starting, drains, checkpoints, resume, kills and retirement. -/

namespace Sys2Proof.Machine

/-! ## Placement (R367, R368) -/

/-- Cores of a footprint. -/
def Footprint.size : Footprint → Nat
  | .any n => n
  | .rect h w => h * w

/-- Cores of a kernel. -/
def KernelImage.cores (g : KernelImage) : Nat := (g.footprints.map Footprint.size).sum

/-- The first core index of a bay ordinal (R13). -/
def KernelImage.firstCore (g : KernelImage) (ord : Nat) : Nat := ((g.footprints.take ord).map Footprint.size).sum

/-- A kernel that stands on cores of the module. -/
def Kernel.placed (k : Kernel) : Bool := k.phase == .bound || k.phase == .draining || k.phase == .checkpointing

/-- A core that a kernel could not stand on without using a fenced unit: itself, an engine of it, its bay or a channel there (R387).
[DESIGN CHOICE: log 169] -/
def State.coreFenced (s : State) (ref : Nat) : Bool :=
  s.sys.fenced.any fun u => match u with
    | .core b i => b == bayOf ref && i == coreIdOf ref
    | .engine b i _ => b == bayOf ref && i == coreIdOf ref
    | .bay b => b == bayOf ref
    | .channel b _ => b == bayOf ref
    | _ => false

/-- A core bound to no kernel and not fenced, if some kernels are counted as gone. -/
def State.coreFree (s : State) (gone : List Nat) (ref : Nat) : Bool :=
  !s.coreFenced ref && !s.kernels.any fun k => k.placed && !gone.contains k.seq && k.cores.contains ref

/-- The entries that the plan of a footprint's circuits loads in its bay, places as R256 counts them there: those of the circuits that it
sends on, and, of those that come from another bay, the ones at the receiver. [DESIGN CHOICE: log 146] -/
def KernelImage.bayClaims (g : KernelImage) (ord : Nat) : List (Nat × Nat × Nat) :=
  let mine (i : Nat) : Bool := decide (g.firstCore ord ≤ i) && decide (i < g.firstCore (ord + 1))
  g.circuits.flatMap fun c =>
    (if mine c.src then c.claims.filter fun q => decide (q.1 < 256) else []) ++
      (if mine c.dst then (c.claims.filter fun q => decide (256 ≤ q.1)).map fun q => (q.1 - 256, q.2) else [])

/-- Whether the routers that a footprint's plan names lie within the mesh of 12 rows of 16, with its rectangle at a corner. -/
def KernelImage.claimsFit (g : KernelImage) (ord corner : Nat) : Bool :=
  (g.bayClaims ord).all fun q => decide (192 ≤ q.1) || (decide (corner + q.1 < 192) && decide (corner % 16 + q.1 % 16 < 16))

/-- The bond-table entries that a kernel's plan loads in a bay for a rectangle at a corner, as (bay × 256 + place, beat, entry): routers are
counted from the corner; the module's Weade ports stand under bay 0 (R256). [DESIGN CHOICE: log 146] -/
def KernelImage.claims (g : KernelImage) (ord bay corner : Nat) : List (Nat × Nat × Nat) :=
  (g.bayClaims ord).map fun q =>
    (if q.1 < 192 then bay * 256 + corner + q.1 else if 196 ≤ q.1 ∧ q.1 < 214 then q.1 else bay * 256 + q.1, q.2)

/-- Whether some entries are of no fenced port or link (R387). [DESIGN CHOICE: log 169] -/
def State.claimsServed (s : State) (cl : List (Nat × Nat × Nat)) : Bool :=
  !cl.any fun q => s.sys.fenced.any fun u => match u with
    | .port b n => q.1 == b * 256 + 192 + n
    | .link n => q.1 == 196 + n
    | _ => false

/-- Whether two entries of one place and beat claim a common output: one that neither leaves open (R256). -/
def bondsMeet (place v w : Nat) : Bool :=
  if place % 256 < 192 then (List.range 5).any fun o => field (3 * o + 2) (3 * o) v != 0 && field (3 * o + 2) (3 * o) w != 0
  else v != 0 && w != 0

/-- Whether no other kernel claims the same output in the same beat. -/
def State.claimsFree (s : State) (gone : List Nat) (cl : List (Nat × Nat × Nat)) : Bool :=
  !cl.any fun q => s.bonds.any fun b => b.1 == q.1 && b.2.1 == q.2.1 && bondsMeet q.1 b.2.2.1 q.2.2 && !gone.contains b.2.2.2

/-- The cores a footprint takes in a bay, in the order of their indexes, or none where it does not fit (R367). -/
def State.fit (s : State) (g : KernelImage) (gone : List Nat) (ord : Nat) (f : Footprint) (bay : Nat) : Option (List Nat) :=
  let free (id : Nat) : Bool := s.coreFree gone (bay * 192 + id)
  match f with
  | .any n =>
    let ids := (List.range 192).filter free
    if ids.length < n then none else some ((ids.take n).map (bay * 192 + ·))
  | .rect h w =>
    let cells (corner : Nat) : List Nat := (List.range h).flatMap fun y => (List.range w).map fun x => corner + y * 16 + x
    ((List.range 192).find? fun c =>
      decide (c % 16 + w ≤ 16) && decide (c / 16 + h ≤ 12) && (cells c).all free && g.claimsFit ord c &&
        s.claimsFree gone (g.claims ord bay c) && s.claimsServed (g.claims ord bay c)).map
      fun c => (cells c).map (bay * 192 + ·)

/-- Bytes of the distinct dictionaries in a bay's store (R28, R368). [DEDUCED: log 65] -/
def State.storeUsed (s : State) (gone : List Nat) (bay : Nat) (not : Nat × Nat) : Nat :=
  let ks := s.kernels.filter fun k => k.placed && !gone.contains k.seq && k.cores.any (fun r => bayOf r == bay) && k.imgKey != not
  (ks.foldl (fun (st : List (Nat × Nat) × Nat) k =>
    if st.1.contains k.imgKey then st else (k.imgKey :: st.1, st.2 + 48 * k.img.dict.length)) ([], 0)).2

/-- The first assignment of bays to footprints in lexicographic order (R367). -/
def assignBays (fit : Nat → Footprint → Nat → Option (List Nat)) : List (Nat × Footprint) → List Nat → Option (List (Nat × List Nat))
  | [], _ => some []
  | (i, f) :: rest, bays => bays.findSome? fun b => match fit i f b with
    | none => none
    | some cs => (assignBays fit rest (bays.filter (· != b))).map fun l => (b, cs) :: l

/-- Whether another kernel of the context holds step ownership, which this one names, on a module where it would bind: some bays of the
domain tell the modules (R308). -/
def State.ownershipTaken (s : State) (k : Kernel) (bays : List Nat) : Bool :=
  k.stepo && s.kernels.any fun j => j.seq != k.seq && j.ctx == k.ctx && j.stepo && (j.placed || j.phase == .preempted) &&
    j.ords.any fun g => bays.any fun b => b / 8 == g / 8

/-- The bays a launch may take, in order: this module's, then those of the domain's other modules (R367). -/
def State.bayOrder (s : State) : List Nat :=
  (List.range 8).map s.globalBay ++
    (((List.range 1024).filter fun n => n != s.node.toNat && s.sys.domain.contains n).flatMap fun n => (List.range 8).map (8 * n + ·))

/-- The cores of this module that a footprint takes in a bay of the domain, or none where it does not fit there: in another module it
takes none of this one's; a resumed kernel keeps its ordinals in the modules that have them (R24). [DESIGN CHOICE: log 147] -/
def State.fitIn (s : State) (k : Kernel) (gone : List Nat) (ord : Nat) (f : Footprint) (g : Nat) : Option (List Nat) :=
  let was : Option Nat := if k.phase = .preempted then k.ords[ord]? else none
  let here := decide (g / 8 = s.node.toNat)
  if was.any fun o => decide (o / 8 = s.node.toNat) != here then none
  else if !here then (if (match was with | some o => o == g | none => Config.farRoom k.seq g s.now) then some [] else none)
  else s.fit k.img gone ord f (g % 8)

/-- Where a waiting entry has room if some kernels were gone: the bay of the domain and the cores of this module for each ordinal, by the
first assignment in which every footprint fits (R367). -/
def State.fitFor (s : State) (k : Kernel) (gone : List Nat) : Option (List (Nat × List Nat)) :=
  assignBays (s.fitIn k gone) (k.img.footprints.mapIdx fun i f => (i, f)) s.bayOrder

/-- Whether an assignment waits for nothing but its cores: no other kernel owns STEP there (R308), and each bay's store has room for the
dictionary (R368). -/
def State.ready? (s : State) (k : Kernel) (place : List (Nat × List Nat)) : Bool :=
  !s.ownershipTaken k (place.map (·.1)) && place.all fun b => b.2.isEmpty ||
    decide (s.storeUsed [] (b.1 % 8) k.imgKey + 48 * k.img.dict.length ≤ 2 ^ 23)

/-- Where a waiting entry is bound now: an entry that has room but waits for a store, or for the ownership of STEP, keeps waiting, and no
core is reserved for it (R308, R368). [DEDUCED: log 170] -/
def State.placeFor (s : State) (k : Kernel) : Option (List (Nat × List Nat)) := (s.fitFor k []).filter (s.ready? k)

/-! ## Dependencies (R365) -/

/-- The opcodes of commands that append a completion record, beside LAUNCH. -/
def hasCompletion (opc : Nat) : Bool := opc == 0x06 || opc == 0x08 || opc == 0x0C || opc == 0x0E || opc == 0x0F

/-- Whether a journal number is complete (true), has failed (false), or neither yet. [DEDUCED: log 62, 107] -/
def State.depState (s : State) (seq : Nat) : Option Bool :=
  if seq = 0 then some true
  else if s.cp.journal.any fun r => r.kind == .refused && (r.seq == seq || r.ref == seq) then some false
  else match s.cp.journal.find? fun r => r.seq == seq with
    | none => none
    | some r => match r.kind, r.body with
      | .accepted, .entry opc _ =>
        if opc = 0x01 then
          match s.cp.journal.find? fun c => c.kind == .completion && c.ref == seq with
          | some c => match c.body with
            | .kernelEnd _ _ _ _ _ _ _ how => some (how == .halted)
            | _ => some true
          | none => none
        else if hasCompletion opc then
          (if s.cp.journal.any fun c => c.kind == .completion && c.ref == seq then some true else none)
        else some true
      | _, _ => some true

/-- Waiting launches whose dependency has failed are refused with status 5; `n` bounds the chain. -/
def State.dropDead (s : State) : Nat → State
  | 0 => s
  | n + 1 =>
    match s.kernels.find? fun k => k.phase == .waiting && k.ending.isNone &&
        (s.depState k.depA == some false || s.depState k.depB == some false) with
    | none => s
    | some k =>
      ((s.journal ⟨0, .refused, 5, k.ctx, k.tag, k.seq, .empty⟩).onKernel k.seq fun k => { k with phase := .retired }).dropDead n

/-! ## The decision (R350 to R353, R371 to R373) -/

/-- The effective class (R372). -/
def Kernel.eff (k : Kernel) : Nat := min 7 (k.cls + k.age / 32)

/-- Whether one waiting entry is considered before another (R372). -/
def Kernel.ahead (a b : Kernel) : Bool :=
  decide (b.eff < a.eff) || (a.eff == b.eff && (decide (b.tokens < a.tokens) || (a.tokens == b.tokens && decide (a.seq < b.seq))))

/-- An element put before the first that does not precede it. -/
def insertBy {α : Type} (lt : α → α → Bool) (x : α) : List α → List α
  | [] => [x]
  | y :: rest => if lt x y then x :: y :: rest else y :: insertBy lt x rest

/-- The waiting entries in the order in which they are considered: launches waiting to be bound, and pre-empted kernels (R372). -/
def State.entries (s : State) : List Kernel :=
  (s.kernels.filter fun k => (k.phase == .waiting || k.phase == .preempted) && k.ending.isNone).foldl (fun l k => insertBy Kernel.ahead k l) []

/-- A kernel's KEST: the largest of its cores that have not halted (R350). -/
def State.kestOf (s : State) (k : Kernel) : Nat :=
  (k.cores.map fun r => let c := s.coreAt r; if c.run = RunState.halted then 0 else c.kest.toNat).foldl max 0

/-- The class word of a kernel's class in its own context (R371): D and K. -/
def State.classWord (s : State) (k : Kernel) : Nat × Nat :=
  let w := match s.ctx? k.ctx with | some x => (Sparse.get (0x100080 : W64) x.classes k.cls).toNat | none => 0x100080
  (field 39 8 w * 256, field 7 0 w)

/-- The kernels that have been stopped and still stand on their cores until they retire (R353). -/
def State.endingNow (s : State) : List Nat := (s.kernels.filter fun k => k.placed && k.ending.isSome).map (·.seq)

/-- The candidates for a newcomer: bound kernels of a class below its own, some bay of which would take one of its footprints were
they all gone; ascending class, then descending KEST (R350). -/
def State.candidates (s : State) (n : Kernel) : List Kernel :=
  let below := s.kernels.filter fun k => k.placed && k.ending.isNone && decide (k.cls < n.eff)
  let all := below.map (·.seq) ++ s.endingNow
  let useful (k : Kernel) : Bool := ((k.cores.map bayOf).dedup).any fun b =>
    (n.img.footprints.mapIdx fun i f => (s.fit n.img all i f b).isSome).any id
  let lt (a b : Kernel) : Bool := decide (a.cls < b.cls) || (a.cls == b.cls && decide (s.kestOf b < s.kestOf a))
  (below.filter useful).foldl (fun l k => insertBy lt k l) []

/-- What is decided of a candidate (R350); `under` is one that is being drained or checkpointed already. -/
inductive Decision where
  | under | drain | checkpoint | kill | leave
  deriving DecidableEq, Repr

/-- The table of R350 for a candidate and the newcomer's tokens. -/
def State.decideOn (s : State) (k : Kernel) (tokens : Nat) : Decision :=
  let (d, thr) := s.classWord k
  if k.phase ≠ .bound then .under
  else if k.decideFrom ≤ 1 ∧ s.kestOf k ≤ d then .drain
  else if k.decideFrom ≤ 2 ∧ k.ckpt then .checkpoint
  else if k.killable ∧ thr ≤ tokens then .kill
  else .leave

/-- The decisions taken for a newcomer in order, until those decided would free enough room; none where they never do (R373). -/
def State.planFor (s : State) (n : Kernel) : List Kernel → List Nat → Nat → List (Nat × Decision) → Option (Nat × List (Nat × Decision))
  | [], _, _, _ => none
  | k :: rest, gone, tokens, acc =>
    match s.decideOn k tokens with
    | .leave => s.planFor n rest gone tokens acc
    | d =>
      let tokens := match d with | .kill => tokens - (s.classWord k).2 | .checkpoint => tokens - 1 | _ => tokens
      let gone := k.seq :: gone
      let acc := acc ++ [(k.seq, d)]
      if (s.fitFor n gone).isSome then some (tokens, acc) else s.planFor n rest gone tokens acc

/-- A decision carried out (R351 to R353). -/
def State.carryOut (s : State) (seq : Nat) : Decision → State
  | .drain => match s.kernel? seq with
    | none => s
    | some k =>
      let d := 2 * (s.classWord k).1
      (s.onKernel seq fun k => { k with phase := .draining, horizon := s.now + d }).after d none (.drainHorizonExpiry seq)
  | .checkpoint => match s.kernel? seq with
    | none => s
    | some k => (s.onKernel seq fun k => { k with phase := .checkpointing, horizon := s.now + k.ckBound }).after k.ckBound none
        (.checkpointBoundExpiry seq)
  | .kill => s.stopKernel seq .killed
  | _ => s

/-- R350 applied for an entry that finds no room; what is ending already makes room without it (R373). -/
def State.preemptFor (s : State) (n : Kernel) : State :=
  if (s.fitFor n s.endingNow).isSome then s
  else match s.planFor n (s.candidates n) s.endingNow n.tokens [] with
  | none => s
  | some (t, ds) => ds.foldl (fun s d => s.carryOut d.1 d.2) (s.onKernel n.seq fun k => { k with tokens := t })

/-- The waiting entries considered in order, up to the first that can be bound now. -/
def State.consider (s : State) : List Kernel → State
  | [] => s
  | k :: rest =>
    if s.depState k.depA ≠ some true ∨ s.depState k.depB ≠ some true then s.consider rest
    else match s.fitFor k [] with
      | some place =>
        if s.ready? k place then s.after 0 none (if k.phase = .preempted then .resume k.seq else .kernelBind k.seq) else s.consider rest
      | none => (s.preemptFor k).consider rest

/-- The command processor's decisions: failed launches are dropped, and the waiting entries are considered. [DEDUCED: log 63] -/
def State.schedule (s : State) : State :=
  let s : State := s.dropDead s.kernels.length
  s.consider s.entries

/-! ## Binding and starting (R13, R42, R214, R367, R368) -/

/-- The dictionary entries that the bundles of a segment come from, from a unit on. -/
def Kernel.entriesIn (k : Kernel) (g : Nat) : Nat → Nat → List Nat
  | 0, _ => []
  | n + 1, at_ => match k.header g with
    | none => []
    | some hd =>
      if hd.len ≤ at_ then []
      else match expandUnit k.img.dict (k.units g) hd.len at_ with
        | .error _ => []
        | .ok (_, next, lit) => (if lit then [] else [((k.units g).getD at_ 0).toNat]) ++ k.entriesIn g n next

/-- Whether a kernel stands in a bay. -/
def Kernel.inBay (k : Kernel) (bay : Nat) : Bool := k.placed && k.cores.any fun r => bayOf r == bay

/-- A kernel's dictionary placed in a bay's store: one that no other kernel there shares is read from the image anew (R368, R388).
[DESIGN CHOICE: log 171] -/
def State.placeDict (s : State) (k : Kernel) (bay : Nat) : State :=
  if s.spoiled.isEmpty ∨ s.kernels.any (fun j => j.seq != k.seq && j.imgKey == k.imgKey && j.inBay bay) then s
  else { s with spoiled := s.spoiled.filter fun x => !(x.1 == bay && x.2.1 == k.imgKey) }

/-- Whether the store of a bay holds an uncorrectable entry that the expansion of a segment meets (R388). -/
def State.badSegment (s : State) (k : Kernel) (bay g : Nat) : Bool :=
  s.spoiled.any fun x => x.1 == bay && x.2.1 == k.imgKey && (k.entriesIn g 513 0).contains x.2.2.1

/-- The uncorrectable entries that the expansion of a segment meets reloaded (R388). [DESIGN CHOICE: log 171] -/
def State.reloadSegment (s : State) (k : Kernel) (bay g : Nat) : State :=
  if s.badSegment k bay g then
    { s with spoiled := s.spoiled.filter fun x => !(x.1 == bay && x.2.1 == k.imgKey && (k.entriesIn g 513 0).contains x.2.2.1) }
  else s

/-- A core of a kernel at its launch values. Of constants that share bytes the later in their list stands (R42). [DESIGN CHOICE: log 166] -/
def Kernel.launchCore (k : Kernel) (ref idx ord : Nat) (old : Core) : Core :=
  let c : Core := { Core.blank ref with
    kernel := k.seq, idx := idx, last := k.seq, clk := old.clk, nextOp := old.nextOp,
    s := Sparse.setAll 0 [] [(1, BitVec.ofNat 64 idx), (2, BitVec.ofNat 64 k.img.cores), (3, BitVec.ofNat 64 ord)],
    fm := Sparse.setAll defaultShape [] (k.img.fm.mapIdx fun i w => (i, w)),
    kest := k.kest0, partword := k.img.part, wdog := BitVec.ofNat 32 k.wdog, run := .loaded }
  let c := k.img.consts.foldl (fun c q => c.poolWriteRemote (cellsAt q.1 q.2)) c
  let e := k.img.entry.getD 0
  let h := Half.expandAll k idx c.clk 513 { seg := some e }
  ({ c with pos := ⟨e, 0⟩, cur := h } : Core).startInterval

/-- How long the wake of the banks lasts that a kernel needs and that are gated on one of some cores: 1,400 cc at most (R389). -/
def State.wakeTime (s : State) (k : Kernel) (refs : List Nat) : Nat × State :=
  if refs.any fun r => decide (partGate k.img.part < partGate (s.coreAt r).partword) then
    let (d, s) := s.free Config.work
    (d % 1401, s)
  else (0, s)

/-- KERNEL_BIND: the placement is made, and every core takes its launch state (R367, R368), once gated banks are awake (R389). -/
def execKernelBind (seq : Nat) (s : State) : Result :=
  .next (match s.kernel? seq with
    | none => s
    | some k =>
      if k.phase ≠ .waiting ∨ k.ending.isSome ∨ s.depState k.depA ≠ some true ∨ s.depState k.depB ≠ some true then s
      else match s.placeFor k with
        | none => s
        | some bays =>
          let (wake, s) := s.wakeTime k (bays.flatMap fun (b : Nat × List Nat) => b.2)
          let here : List Nat := (bays.filter fun (b : Nat × List Nat) => !b.2.isEmpty).map fun b => b.1 % 8
          let s : State := here.foldl (fun s b => s.placeDict k b) s
          let e := k.img.entry.getD 0
          let reload : Nat := if here.any fun b => s.badSegment k b e then 32 else 0
          let s : State := here.foldl (fun s b => s.reloadSegment k b e) s
          let place : List (Nat × Nat × List Nat) := bays.mapIdx fun i b => (i, b.1, b.2)
          let s : State := place.foldl (fun s p =>
            (p.2.2.mapIdx fun j r => (j, r)).foldl (fun s jr =>
              s.onCore jr.2 fun old => k.launchCore jr.2 (k.img.firstCore p.1 + jr.1) p.1 old) s) s
          let claims : List (Nat × Nat × Nat) := (place.filter fun p => !p.2.2.isEmpty).flatMap fun p =>
            k.img.claims p.1 (p.2.1 % 8) ((p.2.2.headD 0) % 192)
          let s : State := { s with bonds := s.bonds ++ claims.map fun (q : Nat × Nat × Nat) => (q.1, q.2.1, q.2.2, seq) }
          let s : State := s.onKernel seq fun k =>
            { k with phase := .bound, cores := bays.flatMap (fun (b : Nat × List Nat) => b.2), ords := bays.map fun (b : Nat × List Nat) => b.1, boundAt := s.mcyc,
                     decideFrom := 1 }
          let (d, s) := s.free Config.work
          (s.after (wake + reload + d + 1) none (.kernelStart seq)).schedule)

/-- KERNEL_START: every core may issue its first bundle in the next cc; the successor of the entry segment is asked for (R214). -/
def execKernelStart (seq : Nat) (s : State) : Result :=
  .next (match s.kernel? seq with
    | none => s
    | some k =>
      if k.started ∨ !k.placed ∨ k.ending.isSome then s
      else
        k.cores.foldl (fun s r => s.onCore r fun c =>
          if c.run = RunState.loaded then ({ c with run := .running, notBefore := c.clk } : Core).prefetch k else c)
          (s.onKernel seq fun k => { k with started := true }))

/-! ## Drains, checkpoints and ageing -/

/-- A candidate decided again, from a later step of R350; where no newcomer needs it any more it is bound as before. -/
def State.decideAgain (s : State) (seq step : Nat) : State :=
  let s : State := (s.onKernel seq fun k => { k with phase := .bound, decideFrom := step }).schedule
  s.onKernel seq fun k => if k.phase = .bound then { k with decideFrom := 1 } else k

/-- Whether an entry of the agenda is an aging tick that is due. -/
def Due.ages (e : Due) (now : Nat) : Bool := decide (e.at_ ≤ now) && match e.ev with | .agingTick _ => true | _ => false

/-- DRAIN_HORIZON_EXPIRY (R351): the entries that age in this cc have aged (R372, R373). -/
def execDrainHorizonExpiry (seq : Nat) (s : State) : Result :=
  .next (match s.kernel? seq with
    | none => s
    | some k =>
      if k.phase = .draining ∧ k.horizon ≤ s.now ∧ k.ending.isNone then
        (if s.agenda.any fun e => e.ages s.now then s.after 0 none (.drainHorizonExpiry seq) else s.decideAgain seq 2)
      else s)

/-- A core stopped for a checkpoint: rolled back to its last brace, whose bundle will issue again (R352, R357). -/
def Core.stopAtBrace (c : Core) : Core :=
  let c := c.rollback
  { c with pos := c.brace.pos, reissue := true, stopReq := false, run := .stopped, src := none }

/-- A core of the module stopped for a checkpoint, with its trace record. -/
def State.stopCore (s : State) (ref : Nat) : State :=
  let back := s.core.ref
  (((s.focus ref).endTrace.trace 7 0 (s.coreAt ref).pos).mapCore Core.stopAtBrace).focus back

/-- Whether a core takes no more part in the stop: stopped already, or halted (R24). -/
def Core.atRest (c : Core) : Bool := c.run == .stopped || c.run == .halted

/-- The save follows once every core has stopped (R352). -/
def State.checkStopped (s : State) (seq : Nat) : State :=
  match s.kernel? seq with
  | some k =>
    if k.phase = .checkpointing ∧ k.cores.all (fun r => (s.coreAt r).atRest) then s.after 0 none (.checkpointSave seq true) else s
  | none => s

/-- Whether a circuit entry of a kernel is on its way. [DEDUCED: log 64] -/
def State.entryInFlight (s : State) (k : Kernel) : Bool :=
  s.agenda.any fun e => match e.ev with | .circuitEntryArrival m => k.cores.contains m.core | _ => false

/-- CHECKPOINT_BOUND_EXPIRY: every core left is rolled back, unless one is in handler mode (R352). A kernel with circuits waits for a
cc in which no entry is in flight. -/
def execCheckpointBoundExpiry (seq : Nat) (s : State) : Result :=
  .next (match s.kernel? seq with
    | none => s
    | some k =>
      if k.phase ≠ .checkpointing ∨ s.now < k.horizon ∨ k.ending.isSome then s
      else if k.cores.any fun r => (s.coreAt r).mode && !(s.coreAt r).atRest then
        (k.cores.foldl (fun s r => s.onCore r fun c =>
          if c.run = RunState.stopped then ({ c with run := .running, notBefore := c.clk + 1 } : Core).goto k c.pos
          else { c with stopReq := false }) s).decideAgain seq 3
      else if s.entryInFlight k then s.after 1 none (.checkpointBoundExpiry seq)
      else
        let s : State := s.onKernel seq fun k => { k with late := k.cores.filter fun r => !(s.coreAt r).atRest }
        (k.cores.foldl (fun s r => if (s.coreAt r).atRest then s else s.stopCore r) s).checkStopped seq)

/-- An operation that waited on the fault of a page, once it is answered. -/
def COp.faultOver (o : COp) (page : Nat) (no : Bool) : COp :=
  if o.faulted.contains page then { o with faulted := o.faulted.filter (· != page), refused := if no then page :: o.refused else o.refused }
  else o

/-- A walker that waited on it. -/
def Walker.faultOver (w : Walker) (page : Nat) (no : Bool) : Walker :=
  if w.pages.contains page then { w with pages := w.pages.filter (· != page), refused := if no then page :: w.refused else w.refused }
  else w

/-- The answer to a page's fault at a core: its operations and walkers walk again, or have the page refused (R378). -/
def Core.pageOver (c : Core) (page : Nat) (no : Bool) : Core :=
  { c with ops := c.ops.map fun o => o.faultOver page no, walkers := c.walkers.map fun w => w.faultOver page no }

/-- A copy of the core in focus stopped at a 64-byte boundary of its own: what it has moved by then stands (R355). A weathered get stops
at a line. [DEDUCED: log 67] -/
def State.stopCopy (s : State) (op : Nat) : State :=
  match s.core.op? op with
  | none => s
  | some o =>
    if o.stage ≠ CStage.moving ∨ !(decide (o.opc < 0x40) || o.opc == 0x43 || o.opc == 0x44) then s
    else
      let unit := if o.opc = 0x21 then 128 else 64
      let (d, s) := s.free Config.work
      let stop := o.moved + unit * (d % ((o.size.1 - o.moved) / unit + 1))
      let s := if o.outward then s else s.moveGet o (some stop)
      s.mapCore fun c => c.onOp op fun p =>
        { p with moved := stop, staged := if o.outward then o.staged ++ o.part (some stop) (gatherBytes s.core o) else p.staged }

/-- An engine operation as it is saved (R355): a released atomic or collective awaits its reply; a stopped copy, and what it still had to
do, is queued again, and of a WGET the parts from the first that is missing are fetched again. [DEDUCED: log 67] -/
def COp.save (o : COp) (withdrawn : Bool) : COp :=
  let again (o : COp) : COp := { o with stage := .queued, promise := none, accAt := 0, parts := 0, phys := [], accs := [] }
  let sent := ([0x60, 0x61, 0x62].contains o.opc && o.parts != 0) || o.opc == 0x64 || o.opc == 0x80 || (o.opc == 0x63 && !withdrawn)
  if o.stage = .localDone ∨ o.stage = .queued ∨ (o.stage = .moving ∧ sent) then o
  else if o.stage = .moving ∧ (o.opc = 0x78 ∨ o.opc = 0x79) then { o with parts := 0 }
  else if o.stage = .moving ∧ o.opc = 0x42 then
    let at_ := (o.asked ++ o.accs.map (·.part)).foldl min o.len
    again { o with moved := at_, replies := o.replies.filter (fun r => decide (r.1 < at_)), stale := o.stale ++ o.asked, asked := [] }
  else again { o with replies := [] }

/-- A core as it is saved. -/
def Core.save (c : Core) (takes : List Nat) : Core :=
  { c with ops := c.ops.map (fun o => o.save (takes.contains o.id)), mq := c.mq.map (fun o => { o with started := false }), mFree := 0,
           eng0 := {}, eng1 := {}, pend := [], stores := [] }

/-- The takes of a core that still wait: they are withdrawn (R370). -/
def State.withdraw (s : State) (ref : Nat) : State :=
  { s with taskQueues := s.taskQueues.map fun q =>
      { q with freeTakes := q.freeTakes.filter (fun t => t.core != ref), fillTakes := q.fillTakes.filter fun t => t.core != ref } }

/-- The operations of a core whose takes wait. -/
def State.takesOf (s : State) (ref : Nat) : List Nat :=
  s.taskQueues.flatMap fun q => ((q.freeTakes ++ q.fillTakes).filter fun t => t.core == ref).map (·.op)

/-- A core left by its kernel runs nothing; its registers and its pool keep what they hold until the next binding wipes them (R42,
R368). -/
def Core.vacate (c : Core) : Core :=
  { c with kernel := 0, run := .unbound, npos := none, src := none, braced := false, issued := false, resumeTo := .running, freed := [],
           pend := [], left := [], stores := [], racing := [], mq := [], mFree := 0, eng0 := {}, eng1 := {}, ops := [], walkers := [], steps := 0,
           stepsOut := 0, brace := {}, log := [],
           cur := {}, idle := {}, queues := [], lastSend := [], triggers := [], stalls := [], unaw := 0, uncov := 0, firstErr := none,
           stopReq := false, noted := [], trace := { c.trace with run := (0, 0), miss := 0 } }

/-- The kernel's plans cleared from the bond tables (R256). -/
def State.unbond (s : State) (seq : Nat) : State := { s with bonds := s.bonds.filter fun b => b.2.2.2 != seq }

/-- Released effects that are staged and not drained (R355). -/
def Core.owes (c : Core) : Bool := c.ops.any fun o => o.outward && o.released && !o.drained && o.stage == .localDone &&
  (decide (o.opc < 0x40) || ((o.opc == 0x43 || o.opc == 0x44) && !o.left))

/-- The parts of a core's record in the context save area, as (offset, bytes): header, brace copies, engine state, trigger table, reply
area, the receive queues of its circuits, and the pool without its gated banks (R354). -/
def saveLayout (gate circuits : Nat) : List (Nat × Nat) :=
  [(0x0, 0x1000), (0x1000, 0x1000), (0x2000, 0xE000), (0x10000, 0x4000), (0x14000, 0x10000), (0x24000, 2048 * circuits),
    (0x100000, (48 - gate) * bankBytes)]

/-- The header of a core's record (R354). -/
def State.saveHeader (s : State) (k : Kernel) (ref : Nat) : SaveHeader :=
  let c := s.coreAt ref
  ⟨k.seq, c.idx, coreIdOf ref, s.globalBay (bayOf ref), c.partword, c.interval, s.mcyc,
    if c.run = RunState.halted then .halted else if k.late.contains ref then .bound else .brace⟩

/-- Bytes of a record, by its layout. -/
def saveSize (gate circuits : Nat) : Nat := ((saveLayout gate circuits).map fun p => p.1 + p.2).foldl max 0

/-- The protected address from which on records are kept. [DESIGN CHOICE: log 154] -/
def saveBase : Nat := 2 ^ 36

/-- The circuits that come in at a core of a kernel. -/
def KernelImage.incoming (g : KernelImage) (idx : Nat) : Nat := (g.circuits.filter fun c => c.dst == idx).length

/-- Bytes of the record of a core. -/
def Core.recordBytes (c : Core) (g : KernelImage) : Nat := saveSize (partGate c.partword) (g.incoming c.idx)

/-- The first protected address above every record that is kept. -/
def State.saveEnd (s : State) : Nat :=
  (s.kernels.flatMap fun k => k.saved.map fun r => r.addr + r.core.recordBytes k.img).foldl max saveBase

/-- The records of a kernel's cores, one after another from an address on (R354). -/
def saveRecords (g : KernelImage) : Nat → List (SaveHeader × Core) → List SaveRecord
  | _, [] => []
  | a, (h, c) :: rest => ⟨a, h, c, []⟩ :: saveRecords g (a + c.recordBytes g) rest

/-- CHECKPOINT_SAVE: released staged effects are drained first; then each core is saved and the kernel is pre-empted (R352, R354,
R355). A save that could not be written is a context fault (R349). -/
def execCheckpointSave (seq : Nat) (ok : Bool) (s : State) : Result :=
  .next (match s.kernel? seq with
    | none => s
    | some k =>
      if k.phase ≠ .checkpointing ∨ k.ending.isSome ∨ !(k.cores.all fun r => (s.coreAt r).atRest) then s
      else if !ok then
        let c := s.coreAt (k.cores.headD 0)
        s.faultKernel seq ⟨0x0106, c.idx, c.trapPc, c.pos.word, c.trapSlot, c.trapCause, c.trapInfo, c.ksave⟩
      else if k.cores.any fun r => (s.coreAt r).owes then s.after 1 none (.checkpointSave seq true)
      else
        let headers := k.cores.map (s.saveHeader k)
        let back := s.core.ref
        let s : State := (k.cores.foldl (fun s r => let s := s.focus r; (s.core.ops.map (·.id)).foldl State.stopCopy s) s).focus back
        let s : State := (s.windows.filter fun w => w.kernel == seq).foldl State.writeBackWindow s
        let saved := saveRecords k.img s.saveEnd (headers.zip (k.cores.map fun r => (s.coreAt r).save (s.takesOf r)))
        let s : State := k.cores.foldl (fun s r => (s.withdraw r).onCore r Core.vacate) s
        let s : State := s.onKernel seq fun k =>
          { k with phase := .preempted, saved := saved, late := [], cores := [], age := 0, ageAt := s.now + 2 ^ 20, decideFrom := 1 }
        ((s.unbond seq).after (2 ^ 20) none (.agingTick seq)).schedule)

/-- AGING_TICK: each 2^20 cc that an entry waits, its age count and its tokens rise by one (R372). [DEDUCED: log 106] -/
def execAgingTick (seq : Nat) (s : State) : Result :=
  .next (match s.kernel? seq with
    | none => s
    | some k =>
      if (k.phase = .waiting ∨ k.phase = .preempted) ∧ k.ageAt = s.now ∧ k.ending.isNone then
        ((s.onKernel seq fun k => { k with age := min 224 (k.age + 1), tokens := min 255 (k.tokens + 1), ageAt := s.now + 2 ^ 20 }).after
          (2 ^ 20) none (.agingTick seq)).schedule
      else s)

/-! ## Resume (R357) -/

/-- The window key of a kernel that has moved to other bays. -/
def rekey (ctx : Nat) (wins : List Nat) (bays : List (Nat × Nat)) (k : WinKey) : WinKey :=
  if k.ctx = ctx ∧ wins.contains k.win then { k with bay := Sparse.get k.bay bays k.bay } else k

/-- A message on its way with its window key, or its counter's bay, changed. -/
def rekeyed (f : WinKey → WinKey) (g : CtrMsg → CtrMsg) : Instr → Instr
  | .remoteAccessArrival a => .remoteAccessArrival { a with key := f a.key }
  | .targetAwayRetry a => .targetAwayRetry (match a.ctr with
      | some m => { a with ctr := some (g m), key := { a.key with bay := (g m).bay } }
      | none => { a with key := f a.key })
  | .counterIncrement m => .counterIncrement (g m)
  | .wfenceArrival m => .wfenceArrival { m with key := f m.key }
  | .postArrival m => .postArrival { m with key := f m.key }
  | .completionNoticeArrival m => .completionNoticeArrival { m with key := f m.key }
  | .lockRequestArrival m => .lockRequestArrival { m with key := f m.key }
  | .lockRetry m => .lockRetry { m with key := f m.key }
  | .unlockArrival m => .unlockArrival { m with key := f m.key }
  | .lockBreak k => .lockBreak (f k)
  | .doneNoticeArrival m => .doneNoticeArrival { m with key := f m.key }
  | .collFinishedArrival m => .collFinishedArrival { m with key := f m.key }
  | .collAbortArrival m => .collAbortArrival { m with key := f m.key }
  | .collDeadline m => .collDeadline { m with key := f m.key }
  | i => i

/-- The kernel's windows, counters and messages follow it to its new cores and bays. -/
def State.relocate (s : State) (k : Kernel) (cores bays : List (Nat × Nat)) : State :=
  let wins := (s.windows.filter fun w => w.kernel == k.seq).map fun w => w.key.win
  let f := rekey k.ctx wins bays
  let g (m : CtrMsg) : CtrMsg := if m.kernel = k.seq then { m with bay := Sparse.get m.bay bays m.bay } else m
  let own (w : Window) : Bool := w.kernel == k.seq
  { s with
    windows := s.windows.map fun w =>
      if own w then { w with key := f w.key, agent := Sparse.get w.agent cores w.agent, held := w.held.map (fun a => { a with key := f a.key }), stalled := w.stalled.map fun a => { a with key := f a.key } } else w,
    colls := s.colls.map fun q => { q with key := f q.key },
    counters := s.counters.map fun c => if c.kernel = k.seq then { c with bay := Sparse.get c.bay bays c.bay } else c,
    agenda := s.agenda.map fun e => { e with ev := rekeyed f g e.ev },
    contexts := s.contexts.map fun x => if x.id ≠ k.ctx then x else
      { x with backlog := x.backlog.map fun b => if b.1 = k.seq then (b.1, b.2.map fun e => (Sparse.get e.1 bays e.1, rekeyed f g e.2)) else b } }

/-- A core as it is restored on a core of its new placement: its unfrozen clock goes on from where it stood, and its trace goes into
the buffer of the core it resumes on (R218, R357). [DEDUCED: log 68] -/
def Core.restore (c : Core) (k : Kernel) (ref : Nat) (old : Core) (f : WinKey → WinKey) : Core :=
  let h := Half.expandAll k c.idx c.clk 513 { seg := some c.pos.seg }
  let c : Core := { c with ref := ref, last := k.seq, nextOp := max c.nextOp old.nextOp, cur := h, idle := {},
                           walkers := c.walkers.map fun w => { w with key := f w.key },
                           trace := { old.trace with run := (0, 0), miss := 0 } }
  if c.run = RunState.halted then c
  else ({ c with run := .running, npos := none, src := none, notBefore := c.clk + 1 } : Core).prefetch k

/-- An entry of the backlog ring applied whole and without a second check (R252, R297). A kernel that ends while it is away has no pool left: an
access to one completes with 0x06. [DEDUCED: log 140] -/
def State.replay (s : State) (i : Instr) : State :=
  match i with
  | .remoteAccessArrival a => match s.window? a.key with
    | some w => if w.pool && (s.kernel? w.kernel).any (fun k => k.phase == .preempted) then s.refuseAccess a 6 else s.applyAccess a w true
    | none => s
  | .counterIncrement m => match execCounterIncrement m s with | .next s => s | _ => s
  | .doneNoticeArrival m => match execDoneNoticeArrival m s with | .next s => s | _ => s
  | _ => s

/-- The cores of a kernel issue nothing before the cc after the next (R357). -/
def State.holdCores (s : State) (k : Kernel) : State :=
  k.cores.foldl (fun s r => s.onCore r fun c => { c with notBefore := max c.notBefore (c.clk + 2) }) s

/-- The replay is over: the trigger table is checked, a trigger that had fired before the save fires now (R188, R294), what the backlog
kept open at the windows ends (R252), the walkers go on, and the engines may take their queues (R357). -/
def State.endReplay (s : State) (k : Kernel) : State :=
  let s : State := s.onKernel k.seq fun k => { k with replaying := false }
  let s : State := k.cores.foldl (fun s r =>
    let ts := (s.coreAt r).triggers
    let s := (ts.filter (·.due)).foldl (fun s t => s.after 0 (some r) (.triggerFire r t.tid)) s
    let s := ts.foldl (fun s t => s.fireTriggers k.seq (bayOf r) t.cid) s
    if (s.coreAt r).walkers.any fun w => w.state != 3 then s.walkAgain r else s) s
  s.settleReady (4 * s.windows.length + 4)

/-- The replay of a resumed kernel's backlog goes on: in order, no entry before one that waits for a translation, and no bundle and no
engine operation before its end (R297, R357). -/
def State.replayOn (s : State) (seq : Nat) : Nat → State
  | 0 => match s.kernel? seq with
    | some k => (s.holdCores k).after 1 none (.resume seq)
    | none => s
  | n + 1 => match s.kernel? seq with
    | none => s
    | some k =>
      if s.windows.any fun w => w.kernel == seq && !w.stalled.isEmpty then (s.holdCores k).after 1 none (.resume seq)
      else match s.toReplay k with
        | [] => s.endReplay k
        | e :: rest =>
          let keep (l : List (Nat × Instr)) (s : State) : State := s.onCtx k.ctx fun x =>
            { x with backlog := (x.backlog.filter fun b => b.1 != seq) ++ (if l.isEmpty then [] else [(seq, l)]) }
          (keep rest ((keep [] s).replay e.2)).replayOn seq n

/-- A parked reply takes effect at its core: a fault's answer, or the completion that it carries (R356, R357). -/
def State.merge (s : State) (p : Parked) : State :=
  match p.kind with
  | .fill => s.onCore p.core fun c => c.pageOver p.part (p.status == 2)
  | _ => match execRemoteCompletion ⟨p.core, p.op, p.status, p.data, p.part⟩ s with | .next s => s | _ => s

/-- RESUME: pools and registers, parked replies, the backlog, triggers, engines, and the brace bundle issues again (R357). -/
def execResume (seq : Nat) (s : State) : Result :=
  .next (match s.kernel? seq with
    | none => s
    | some k =>
      if k.ending.isSome then s
      else if k.phase = .bound then (if k.replaying then s.replayOn seq 4096 else s)
      else if k.phase ≠ .preempted then s
      else match s.placeFor k with
        | none => s
        | some place =>
          let refs : List Nat := place.flatMap fun b => b.2
          let pairs : List (SaveRecord × Nat) := k.saved.zip refs
          let cores : List (Nat × Nat) := pairs.map fun p => (p.1.core.ref, p.2)
          let bays : List (Nat × Nat) := (k.ords.zip place).filterMap fun p => if p.1 / 8 = s.node.toNat then some (p.1 % 8, p.2.1 % 8) else none
          let ords := k.ords.mapIdx fun i g => match place[i]? with | some b => b.1 | none => g
          let claims : List (Nat × Nat × Nat) :=
            (place.mapIdx fun i b => if b.2.isEmpty then [] else k.img.claims i (b.1 % 8) ((b.2.headD 0) % 192)).flatten
          let moved := rekey k.ctx ((s.windows.filter fun w => w.kernel == k.seq).map fun w => w.key.win) bays
          let s : State := s.relocate k cores bays
          let s : State := (refs.map bayOf).dedup.foldl (fun s b => s.placeDict k b) s
          let late : List Nat := (pairs.filter fun p => s.badSegment k (bayOf p.2) p.1.core.pos.seg).map (·.2)
          let s : State := pairs.foldl (fun s p => (s.reloadSegment k (bayOf p.2) p.1.core.pos.seg).onCore p.2 fun old =>
            let c := p.1.core.restore k p.2 old moved
            if late.contains p.2 then { c with notBefore := c.notBefore + 32 } else c) s
          let s : State := { s with bonds := s.bonds ++ claims.map (fun (q : Nat × Nat × Nat) => (q.1, q.2.1, q.2.2, seq)),
                                    moved := s.moved ++ (pairs.filter fun p => p.1.core.ref != p.2).map fun p => (p.1.core.ref, p.1.core.nextOp, p.2) }
          let s : State := s.onKernel seq fun k =>
            { k with phase := .bound, cores := refs, ords := ords, saved := [], decideFrom := 1, replaying := true }
          let s : State := (pairs.flatMap fun p => p.1.replies).foldl (fun s p => s.merge { p with core := Sparse.get p.core cores p.core }) s
          let back := s.core.ref
          let s : State := refs.foldl (fun s r =>
            let s : State := s.focus r
            s.trace 7 1 s.core.pos) s
          ((s.focus back).replayOn seq 4096).schedule)

/-! ## The end of a kernel (R24, R244, R274, R391) -/

/-- A kernel with bays in other modules. -/
def State.farReaching (s : State) (k : Kernel) : Bool := k.ords.any fun g => decide (g / 8 ≠ s.node.toNat)

/-- What a kernel's cores in other modules add to a count of its record. -/
def State.farAdd (s : State) (k : Kernel) (i : Nat) : List Nat := if s.farReaching k then [Config.farCount k.seq i] else []

/-- Some counts of a kernel's cores added, saturating at 32 bits. -/
def sumSat (l : List Nat) : Nat := min l.sum (2 ^ 32 - 1)

/-- The kernel's cores, bound or saved. -/
def State.coresFor (s : State) (k : Kernel) : List Core := k.cores.map s.coreAt ++ k.saved.map (·.core)

/-- The completion record and what follows it, and everything of the kernel is gone, a window of it once nothing accepted is left to
apply (R243, R255). -/
def State.retire (s : State) (k : Kernel) (how : KEnd) : State :=
  let cs := s.coresFor k
  let stalls := (List.range 9).map fun i => (i + 1, sumSat ((cs.map fun c => Sparse.get 0 c.stalls (i + 1)) ++ s.farAdd k (i + 1)))
  let first := cs.foldl (fun (m : Option FirstError) c => match m, c.firstErr with
    | none, e => e
    | m, none => m
    | some a, some b => some (if b.before a then b else a)) none
  let wins := s.windows.filter fun w => w.kernel == k.seq
  let told := wins.filter fun w => w.status.count != 0
  let s : State := s.journal ⟨0, .completion, 0, k.ctx, k.tag, k.seq,
    .kernelEnd stalls (sumSat (cs.map (·.unaw) ++ s.farAdd k 10)) (sumSat (cs.map (·.uncov) ++ s.farAdd k 11)) first told.length s.mcyc k.boundAt how⟩
  let s : State := told.foldl (fun s w => s.journal ⟨0, .windowStatus, 0, k.ctx, k.tag, k.seq, .window w.status w.key.win w.rank⟩) s
  let s : State := match k.record with
    | some r => s.journal ⟨0, .contextFault, 0, k.ctx, k.tag, k.seq, .fault k.seq r⟩
    | none => s
  let s : State := k.cores.foldl (fun s r => (s.withdraw r).onCore r Core.vacate) s
  let s : State := s.unbond k.seq
  let s : State := (s.toReplay k).foldl (fun s e => s.replay e.2) s
  let s : State := wins.foldl State.writeBackWindow s
  let s : State := { s with windows := s.windows.map (fun w => if w.kernel = k.seq then { w with live := false } else w),
                            colls := s.colls.filter (fun q => !wins.any fun w => w.key == q.key),
                            counters := s.counters.filter fun c => c.kernel != k.seq }
  let s : State := s.onCtx k.ctx fun x => { x with backlog := x.backlog.filter fun b => b.1 != k.seq }
  let s : State := s.onKernel k.seq fun k => { k with phase := .retired, cores := [], saved := [] }
  (wins.foldl (fun s w => s.retryHeld w.key) s).schedule

/-- Whether a core still has a store that is not visible (R274). [DEDUCED: log 85] -/
def Core.storesLeft (c : Core) : Bool := c.ops.any fun o => o.outward && o.released && !o.drained

/-- Whether the relay engine copies a batch one of whose blocks an access has waited for (R326): a kernel of its context that halts retires
after it (R318). [DEDUCED: log 165] -/
def State.batchServes (s : State) (ctx : Nat) : Bool :=
  s.regions.any fun g => g.key.ctx == ctx && match g.batch? with
    | some b => !b.demand.isEmpty && (b.step == some .copy || b.step == some .finish)
    | none => false

/-- KERNEL_RETIREMENT: every core has halted, or the kernel was killed or has faulted; every released store is visible (R24, R274,
R353). -/
def execKernelRetirement (seq : Nat) (s : State) : Result :=
  .next (match s.kernel? seq with
    | none => s
    | some k =>
      let cs := s.coresFor k
      let halted := k.placed && !cs.isEmpty && cs.all fun c => c.run == .halted
      if k.phase = .retired ∨ !(k.ending.isSome || halted) then s
      else if cs.any Core.storesLeft ∨ (s.farReaching k ∧ !Config.farHalted seq s.now) ∨ (k.ending.isNone ∧ s.batchServes k.ctx) then s.after 1 none (.kernelRetirement seq)
      else s.retire k (k.ending.getD .halted))

end Sys2Proof.Machine
end

