-- ==== Sys2Proof/Machine/Container.lean ====
section
/-! DEFINITION. The Bilro container as LAUNCH reads it (R2, R36, R38, R41 to R44, R63, R66): its header and section table, signature and
sections as bytes of module memory, and the loader's patches. -/

namespace Sys2Proof.Machine

/-- A module-memory range (R1). -/
def memOk (a n : Nat) : Bool := decide (a + n ≤ 2 ^ 40)

/-! ## Header and section table (R41) -/

/-- The 32 header bytes. -/
def State.containerHeader (s : State) (a : Nat) : Nat := s.memNat a 32
/-- MAGIC. -/
def hdMagic (h : Nat) : Nat := field 31 0 h
/-- VERSION. -/
def hdVersion (h : Nat) : Nat := field 47 32 h
/-- NSEC. -/
def hdNsec (h : Nat) : Nat := field 63 48 h
/-- FLAGS bit 0: the file is signed. -/
def hdSigned (h : Nat) : Bool := bitOf 64 h
/-- KID. -/
def hdKid (h : Nat) : Nat := field 191 128 h

/-- The section-table entries. -/
def State.sectionTable (s : State) (a : Nat) : List Nat := (List.range (hdNsec (s.containerHeader a))).map fun i => s.memNat (a + 32 + 16 * i) 16
/-- TYPE of a section. -/
def secType (e : Nat) : Nat := field 31 0 e
/-- OFFSET. -/
def secOffset (e : Nat) : Nat := field 63 32 e
/-- SIZE. -/
def secSize (e : Nat) : Nat := field 95 64 e

/-- The types of the sections of a file in order: 1 to 8 for each kernel, and a signature at the end of a signed file. -/
def sectionTypes (kernels : Nat) (signed : Bool) : List Nat :=
  (List.replicate kernels [1, 2, 3, 4, 5, 6, 7, 8]).flatten ++ if signed then [15] else []

/-- The kernels of a file: as many as it has kernel headers. -/
def State.kernelsIn (s : State) (a : Nat) : Nat := ((s.sectionTable a).filter fun e => secType e == 1).length

/-- A section table whose signature, where there is one, is the last section of the file: it ends the file, and every other section lies
before it (R41). -/
def signatureLast (size : Nat) (ts : List Nat) : Bool :=
  ts.all fun e => secType e != 15 || (secOffset e + secSize e == size &&
    ts.all fun f => secType f == 15 || decide (secOffset f + secSize f ≤ secOffset e))

/-- A header and a section table as R41 requires them. -/
def State.containerOk (s : State) (g : Image) : Bool :=
  let h := s.containerHeader g.addr
  let ts := s.sectionTable g.addr
  memOk g.addr 32 && memOk g.addr g.size && hdMagic h == 0x4F4C4942 && hdVersion h == 1 && decide (1 ≤ hdNsec h) && decide (hdNsec h ≤ 64) &&
    field 127 65 h == 0 && field 255 192 h == 0 && (hdSigned h || hdKid h == 0) &&
    ts.map secType == sectionTypes (s.kernelsIn g.addr) (hdSigned h) && signatureLast g.size ts &&
    ts.all fun e => field 127 96 e == 0 && decide (secOffset e + secSize e ≤ g.size)

/-- The container keys that the key store holds: the vendor's test keys, or those that the last provisioning installed (R382). -/
def KeyStore.container (k : KeyStore) : Option Nat := if k.test then some 0 else k.owner.map (· + 1)

/-- The signature of a signed file: it verifies over every byte before its section with the key that KID names (R41, R43). -/
def State.signatureOk (s : State) (g : Image) : Bool :=
  match (s.sectionTable g.addr).getLast? with
  | none => false
  | some e => match s.sys.keys.container.bind fun n => Config.containerKey n (BitVec.ofNat 64 (hdKid (s.containerHeader g.addr))) with
    | none => false
    | some k => secSize e == 512 &&
        Config.rsaVerify k (BitVec.ofNat 4096 (s.memNat (g.addr + secOffset e) 512)) (Config.sha512 (s.memBytes g.addr (secOffset e)))

/-- A container that R41 and R43 let launch in a context: well formed, and signed or let through by the context's policy. -/
def State.launchable (s : State) (g : Image) (acceptU : Bool) : Bool :=
  s.containerOk g && (if hdSigned (s.containerHeader g.addr) then s.signatureOk g else acceptU)

/-! ## Code and formats (R39, R44, R63, R66) -/

/-- The dictionary of a section's bytes: entry i at byte 48i, byte j of it bundle bits [8j+7:8j]. -/
def dictOf (bs : List Byte) : List (BitVec 384) := (chunks 48 (bs.length / 48) bs).map fun e => BitVec.ofNat 384 (natOf e)

/-- The units of a segment's body, little-endian. -/
def bodyUnits (bs : List Byte) : List (BitVec 16) := (chunks 2 (bs.length / 2) bs).map fun u => BitVec.ofNat 16 (natOf u)

/-- The segments of a section's bytes, each at a 16-byte boundary: a header, LEN units, and bytes that are ignored; none where a segment
runs past the section. -/
def segmentsOf : Nat → List Byte → Option (List Segment)
  | 0, bs => if bs.isEmpty then some [] else none
  | n + 1, bs =>
    if bs.isEmpty then some []
    else
      let h := BitVec.ofNat 128 (natOf (bs.take 16))
      let size := 16 + 2 * field 15 0 h.toNat
      if bs.length < size then none
      else (segmentsOf n (bs.drop (ceilDiv size 16 * 16))).map fun l => ⟨h, bodyUnits ((bs.drop 16).take (size - 16))⟩ :: l

/-- The launch values of fm and the format-table rows of a section's bytes: 16 words of 32 bits, then 64 of 64 bits (R41).
[DEDUCED: log 148] -/
def formatsOf (bs : List Byte) : List W32 × List W64 :=
  ((chunks 4 16 bs).map fun w => BitVec.ofNat 32 (natOf w), (chunks 8 64 (bs.drop 64)).map fun w => BitVec.ofNat 64 (natOf w))

/-! ## The loader (R36, R38, R42) -/

/-- The absolute bank of a buffer: RF + ACC + SHORE + B. -/
def KernelPlan.bank (k : KernelPlan) (n : Nat) : Option Nat := (k.buffers.find? fun b => b.num == n).map fun b => partBase k.part + b.b

/-- The scratchpad offset of a buffer's first byte. -/
def KernelPlan.place (k : KernelPlan) (n : Nat) : Option Nat := (k.buffers.find? fun b => b.num == n).map fun b => b.b * bankBytes + b.off

/-- The bytes of the section of a type of the i-th kernel of a file (R41). -/
def State.sectionOf (s : State) (g : Image) (i t : Nat) : List Byte :=
  let e := (s.sectionTable g.addr).getD (8 * i + t - 1) 0
  s.memBytes (g.addr + secOffset e) (secSize e)

/-- What the i-th kernel's header, plans, constants and symbols say. [DESIGN CHOICE: log 6] -/
def State.planOf (s : State) (g : Image) (i : Nat) : Option KernelPlan :=
  if s.kernelsIn g.addr ≤ i then none else Config.kernelPlan ([1, 4, 5, 7, 8].map (s.sectionOf g i))

/-- The buffer that a name stands for across kernels: a symbol of a buffer whose export flag is set (R38, R42). -/
def KernelPlan.exportOf (k : KernelPlan) (name : String) : Option Nat :=
  (k.symbols.find? fun y => y.name == name && y.kind == .buffer && y.exported).map fun y => y.value.toNat

/-- The bank that a patch fills in; none where its buffer does not exist, or is another kernel's that does not export it. -/
def State.bankOf (s : State) (g : Image) (k : KernelPlan) (p : Patch) : Option Nat :=
  match p.name with
  | .own b => k.bank b
  | .exported i name => (s.planOf g i).bind fun j => (j.exportOf name).bind j.bank

/-- The kernel selector that a patch fills in: the number in the file of the kernel it names (R38, R161). -/
def Patch.selector (p : Patch) (own : Nat) : Nat := match p.name with | .own _ => own | .exported i _ => i

/-- The bundle with BANK in its MOVHI immediate (R77). -/
def patchBundle (b : BitVec 384) (bank : Nat) : BitVec 384 := (b &&& ~~~(0xFF00 : BitVec 384)) ||| BitVec.ofNat 384 (bank % 256 * 256)

/-- The literal at a unit with BANK in its MOVHI immediate: the immediate's low byte follows the header's byte, if there is one (R64). -/
def patchLiteral (us : List (BitVec 16)) (unit bank : Nat) : List (BitVec 16) :=
  us.modify (unit + 2) fun u =>
    if bitOf 0 (us.getD (unit + 1) 0).toNat then BitVec.ofNat 16 (u.toNat % 256 + bank % 256 * 256)
    else BitVec.ofNat 16 (u.toNat / 256 * 256 + bank % 256)

/-- A kernel with one patch made. -/
def KernelImage.patched (k : KernelImage) (plan : KernelPlan) (own : Nat) (p : Patch) (bank : Nat) : KernelImage :=
  let const (buf off : Nat) (bs : List Byte) : KernelImage := match plan.place buf with
    | some a => { k with consts := k.consts ++ [(a + off, bs)] }
    | none => k
  match p.site with
  | .dict i => { k with dict := k.dict.modify i fun b => patchBundle b bank }
  | .literal g u => { k with segs := k.segs.modify g fun x => { x with units := patchLiteral x.units u bank } }
  | .image b o => const b (o + 4) [BitVec.ofNat 8 bank]
  | .ksel b o => const b (o + 9) (bytesOf 2 (p.selector own))

/-- A kernel of an image as its launch loads it, or none where a section or a patch is malformed. -/
def State.loadKernel (s : State) (g : Image) (i : Nat) : Option KernelImage :=
  match s.planOf g i with
  | none => none
  | some plan =>
    let sec (t : Nat) : Nat := (s.sectionTable g.addr).getD (8 * i + t - 1) 0
    let (fm, rows) := formatsOf (s.sectionOf g i 6)
    match segmentsOf (secSize (sec 3)) (s.sectionOf g i 3), plan.patches.mapM fun p => (s.bankOf g plan p).map fun b => (p, b) with
    | some segs, some ps =>
      if secSize (sec 2) % 48 ≠ 0 ∨ 3 * 2 ^ 20 < secSize (sec 2) ∨ secSize (sec 6) ≠ 576 ∨ secOffset (sec 3) % 16 ≠ 0 ∨
          secSize (sec 4) ≠ 16 * plan.nbuf ∨ plan.nbuf ≠ plan.buffers.length ∨ plan.consts.any (fun c => (plan.place c.1).isNone) then none
      else
        let k : KernelImage := {
          footprints := plan.footprints, part := plan.part, buffers := plan.buffers, circuits := plan.circuits, fm := fm, rows := rows,
          consts := plan.consts.filterMap (fun c => (plan.place c.1).map fun a => (a + c.2.1, c.2.2)), dict := dictOf (s.sectionOf g i 2),
          segs := segs, entry := plan.entry, handler := plan.handler, symbols := plan.symbols }
        some (ps.foldl (fun k p => k.patched plan i p.1 p.2) k)
    | _, _ => none

/-! ## Launch checks (R15, R20, R23, R35, R36, R40, R95, R126, R256) -/

/-- A well-formed entry of a bond table: no reserved bit and no input code 7 at a router; a port's entry is its circuit's or open
(R256). From place 256 on stand those of the receiver's bay. -/
def bondOk (place beat w : Nat) : Bool :=
  decide (place < 512) && decide (place % 256 < 218) && decide (beat < 256) &&
    (if place % 256 < 192 then decide (w < 2 ^ 15) && (List.range 5).all fun o => field (3 * o + 2) (3 * o) w != 7 else decide (w < 2))

/-- A kernel's header, formats, rows and plans as the rules require; a handler index at or beyond the number of segments is refused as an
entry index is (R40). [DESIGN CHOICE: log 167] -/
def KernelImage.legal (k : KernelImage) : Bool :=
  let foot (f : Footprint) : Bool := match f with
    | .any n => decide (1 ≤ n) && decide (n ≤ 192)
    | .rect h w => decide (1 ≤ h) && decide (h ≤ 12) && decide (1 ≤ w) && decide (w ≤ 16)
  let isRect (f : Footprint) : Bool := match f with | .any _ => false | .rect _ _ => true
  let n := k.segs.length
  (match k.entry with | some e => decide (e < n) && k.entry != k.handler | none => false) &&
    (match k.handler with | some h => decide (h < n) | none => true) &&
    k.fm.all (fun w => shapeLegal w.toNat) && k.rows.all (fun r => field 63 61 r.toNat == 0) && !k.footprints.isEmpty && k.footprints.all foot &&
    (k.circuits.isEmpty || k.footprints.all isRect) &&
    k.circuits.all (fun c => decide (c.src < k.cores) && decide (c.dst < k.cores) && decide (c.ch < 256) &&
      c.claims.all fun q => bondOk q.1 q.2.1 q.2.2) &&
    decide (k.dict.length ≤ 65535)

/-- The partition word and the scratchpad plan (R20, R36, R38). -/
def KernelImage.fits (k : KernelImage) : Bool :=
  partLegal k.part && k.buffers.all fun b =>
    decide (b.off < bankBytes) && decide (1 ≤ b.size) && b.nb == ceilDiv (b.off + b.size) bankBytes && decide (b.b + b.nb ≤ partScratch k.part)

end Sys2Proof.Machine
end

