-- ==== Sys2Proof/Machine/Commands.lean ====
section
/-! DEFINITION. The command processor (R360 to R366, R369, R371, R375 to R380, R385, R390): the sixteen submission queues, each
command's check and effect, and the ends of INVAL, MIGRATE and SEAL. -/

namespace Sys2Proof.Machine

/-! ## Taking an entry (R360, R361, R363, R390) -/

/-- The queues are open, and the journal has room for a record (R381, R390). -/
def State.canTake (s : State) : Bool :=
  s.sys.boot == .open_ && s.sys.life != .decommissioned && s.cp.held.isEmpty && decide (s.cp.nextSeq - 1 - s.cp.readIdx < 2 ^ 20)

/-- An entry that is put off to the next cc: another one has been accepted in this one (R363). -/
def State.putOff (s : State) (opc : Nat) (c : Cmd) : State := { s with cp := { s.cp with late := s.cp.late ++ [(opc, c)] } }

/-- A command entry checked as it is taken: refused with its status and no effect, or accepted with the next sequence number, and
its effect begins (R363); two are never accepted in one cc. `unused` gathers the payload bits that must be zero. [DEDUCED: log 57] -/
def State.command (s : State) (opc : Nat) (c : Cmd) (unused : Nat) (check : Nat) (effect : Nat → State → State) : State :=
  if !s.canTake then s
  else if s.cp.lastAccept = some s.now then s.putOff opc c
  else
    let st := if c.res ≠ 0 ∨ unused ≠ 0 then 2 else if (s.ctx? c.ctx.toNat).isNone then 5 else check
    if st ≠ 0 then s.journal ⟨0, .refused, st, c.ctx.toNat, c.tag, 0, .entry opc c⟩
    else
      let seq := s.cp.nextSeq
      let s := s.journal ⟨0, .accepted, 0, c.ctx.toNat, c.tag, 0, .entry opc c⟩
      effect seq { s with cp := { s.cp with lastAccept := some s.now } }

/-- A completion record of a command (R363). -/
def State.complete (s : State) (seq ctx : Nat) (tag : BitVec 32) : State := s.journal ⟨0, .completion, 0, ctx, tag, seq, .empty⟩

/-- Words that must be zero, taken together. -/
def orWords (l : List W64) : Nat := l.foldl (fun n w => n ||| w.toNat) 0

/-! ## LAUNCH (R365, R366) -/

/-- A root-range entry: the range's first byte in the scratchpad, or none where the entry is malformed (R366). -/
def KernelImage.root (k : KernelImage) (n : Nat) : Option RootRange :=
  match k.buffers.find? fun b => b.num == field 7 0 n with
  | none => none
  | some b =>
    let off := field 31 8 n
    let len := field 55 32 n
    if field 63 56 n ≠ 0 ∨ off % 8 ≠ 0 ∨ len % 8 ≠ 0 ∨ b.size < off + len then none else some ⟨b.b * bankBytes + b.off + off, len⟩

/-- A queue-binding entry, or the status of its refusal (R366). -/
def State.binding (s : State) (ctx n : Nat) : Except Nat QBinding :=
  if field 63 37 n ≠ 0 then .error 2
  else match s.queue? ctx (field 15 0 n) with
    | none => .error 5
    | some q =>
      let ok (i : Nat) : Bool := if q.dom then decide (768 ≤ i) && decide (i < 1024) else decide (512 ≤ i) && decide (i < 768)
      if ok (field 25 16 n) && ok (field 35 26 n) then .ok ⟨field 15 0 n, field 25 16 n, field 35 26 n, bitOf 36 n⟩ else .error 2

/-- 2^e, or a default where e is 0; none where e is out of its range. -/
def powField (e lo hi dflt : Nat) : Option Nat := if e = 0 then some (2 ^ dflt) else if lo ≤ e ∧ e ≤ hi then some (2 ^ e) else none

/-- A launch record read and checked: the kernel it launches, or the status of its refusal (R363, R365). [DEDUCED: log 58] -/
def State.launchOf (s : State) (c : Cmd) (seq : Nat) : Except Nat Kernel :=
  let r := s.memNat c.w1.toNat 128
  let ctx := c.ctx.toNat
  if !memOk c.w1.toNat 128 ∨ field 1023 575 r ≠ 0 ∨ bitOf 559 r ∨ bitOf 547 r ∨ field 511 480 r ≠ 0 ∨ field 191 128 r ≠ 0 ∨
      16 < field 543 536 r ∨ 64 < field 535 528 r ∨ field 467 464 r ≠ 0 ∨ (field 543 536 r ≠ 0 ∧ !memOk (field 447 384 r) (8 * field 543 536 r)) ∨
      (field 535 528 r ≠ 0 ∧ !memOk (field 383 320 r) (8 * field 535 528 r)) then .error 2
  else match powField (field 564 560 r) 10 30 20, powField (field 569 565 r) 12 24 16, powField (field 574 570 r) 16 26 20 with
    | some wd, some ck, some br =>
      match s.images.find? fun g => g.addr == field 63 0 r, s.ctx? ctx with
      | some g, some x =>
        if !s.launchable g (x.acceptU && s.sys.life != .deployed) then .error 3
        else if s.kernelsIn g.addr ≤ field 527 512 r then .error 5
        else match s.loadKernel g (field 527 512 r) with
          | none => .error 3
          | some k =>
            let roots := (List.range (field 543 536 r)).map fun i => k.root (s.memNat (field 447 384 r + 8 * i) 8)
            let binds := (List.range (field 535 528 r)).map fun i => s.binding ctx (s.memNat (field 383 320 r + 8 * i) 8)
            let depA := field 255 192 r
            let depB := field 319 256 r
            let bad (d : Nat) : Bool := d != 0 && (decide (s.cp.nextSeq ≤ d) || s.depState d == some false)
            if !k.legal then .error 3
            else if !k.fits then .error 4
            else if roots.any Option.isNone then .error 2
            else match binds.findSome? fun b => match b with | .error e => some e | .ok _ => none with
              | some e => .error e
              | none =>
                if bad depA || bad depB then .error 5
                else .ok {
                  seq := seq, ctx := ctx, tag := c.tag, img := k, imgKey := (g.addr, field 527 512 r), cls := field 546 544 r,
                  tokens := field 555 548 r, age := 0, ageAt := s.now + 2 ^ 20, ckpt := bitOf 557 r, killable := bitOf 556 r,
                  stepo := bitOf 558 r, wdog := wd, ckBound := ck, backlog := br, trace := BitVec.ofNat 32 (field 479 448 r),
                  kest0 := BitVec.ofNat 64 (field 127 64 r), depA := depA, depB := depB, roots := roots.filterMap id,
                  queues := binds.filterMap fun b => match b with | .ok q => some q | .error _ => none,
                  phase := .waiting, horizon := 0, cores := [], ords := [], saved := [], boundAt := 0, started := false, ending := none,
                  decideFrom := 1, record := none }
      | _, _ => .error 3
    | _, _, _ => .error 2

/-- LAUNCH: a kernel waits to be bound. -/
def execLaunch (c : Cmd) (s : State) : Result :=
  let r := s.launchOf c s.cp.nextSeq
  .next (s.command 0x01 c (orWords [c.w2, c.w3, c.w4, c.w5, c.w6, c.w7]) (match r with | .error e => e | .ok _ => 0) fun seq s =>
    match r with
    | .error _ => s
    | .ok k => (({ s with kernels := s.kernels ++ [k] }).after (2 ^ 20) none (.agingTick seq)).schedule)

/-! ## Queues, kills, classes (R353, R369, R371) -/

/-- QCREATE. -/
def execQcreate (c : Cmd) (s : State) : Result :=
  let d := c.w1.toNat
  let ctx := c.ctx.toNat
  let bad : Bool := c.w2 != 0 || c.w3 != 0 || c.w4 != 0 || field 31 20 d != 0 || field 63 32 d == 0 || decide (2 ^ 24 < field 63 32 d) ||
    (s.queue? ctx (field 15 0 d)).isSome
  .next (s.command 0x02 c (orWords [c.w5, c.w6, c.w7]) (if bad then 2 else 0) fun _ s =>
    { s with taskQueues := s.taskQueues ++ [⟨ctx, field 15 0 d, field 18 16 d, bitOf 19 d, field 63 32 d, BitVec.ofNat 64 (field 63 32 d), 0, [], [], 0⟩] })

/-- QFREE: refused while a bound or pre-empted kernel holds a binding. -/
def execQfree (c : Cmd) (s : State) : Result :=
  let ctx := c.ctx.toNat
  let q := c.w1.toNat
  let held := s.kernels.any fun k => k.ctx == ctx && (k.placed || k.phase == .preempted) && k.queues.any fun b => b.qid == q
  let st := if 2 ^ 16 ≤ q then 2 else if (s.queue? ctx q).isNone then 5 else if held then 4 else 0
  .next (s.command 0x03 c (orWords [c.w2, c.w3, c.w4, c.w5, c.w6, c.w7]) st fun _ s =>
    { s with taskQueues := s.taskQueues.filter fun t => !(t.ctx == ctx && t.qid == q) })

/-- KILL: the kernel stops at once and retires (R353). -/
def execKill (c : Cmd) (s : State) : Result :=
  let ok : Bool := match s.kernel? c.w1.toNat with | some k => k.ctx == c.ctx.toNat && k.phase != .retired && k.ending.isNone | none => false
  .next (s.command 0x04 c (orWords [c.w2, c.w3, c.w4, c.w5, c.w6, c.w7]) (if ok then 0 else 5) fun _ s => s.stopKernel c.w1.toNat .killed)

/-- CLASSTAB: the word takes effect at the next decision. -/
def execClasstab (c : Cmd) (s : State) : Result :=
  let bad : Bool := decide (8 ≤ c.w1.toNat) || field 63 40 c.w2.toNat != 0
  .next (s.command 0x09 c (orWords [c.w3, c.w4, c.w5, c.w6, c.w7]) (if bad then 2 else 0) fun _ s =>
    s.onCtx c.ctx.toNat fun x => { x with classes := Sparse.put x.classes c.w1.toNat c.w2 })

/-! ## Pages (R275, R375 to R380) -/

/-- TLB entries of a range of a context dropped from the bays' die TLBs and the engines' own (R374, R377). -/
def State.flushTlb (s : State) (ctx va len : Nat) : State :=
  let hit := tlbHit va len
  let s : State := { s with dieTlb := s.dieTlb.filter fun e => !(e.2.1 == ctx && hit e.2.2) }
  (s.coresOf ctx).foldl (fun s r => s.onCore r fun c =>
    { c with eng0 := { c.eng0 with tlb := c.eng0.tlb.filter fun p => !hit p }, eng1 := { c.eng1 with tlb := c.eng1.tlb.filter fun p => !hit p } }) s

/-- The leaves of a context without those that meet a range. -/
def Context.unmap (x : Context) (va len : Nat) : Context :=
  { x with leaves := x.leaves.filter fun l => !rangesMeet (l.page * 2 ^ 16) (pageBytes (leafSz l.word)) va len }

/-- The word of the i-th page of a MAP: the frames of unstriped pages follow one another, those of a striped range are one (R376). -/
def leafStep (w : W64) (i : Nat) : W64 :=
  if leafStripe w ≠ 0 then w else w + BitVec.ofNat 64 (i * pageBytes (leafSz w))

/-- The accesses of a context under way at their ports that meet a range: what is left of each is applied, as it was accepted (R377, R385).
[DEDUCED: log 60] -/
def State.finishRange (s : State) (ctx va len : Nat) : State :=
  let meets (b : Access) : Bool := b.key.ctx == ctx && match s.window? b.key with
    | some w => !w.pool && rangesMeet (w.base + b.off) b.len va len
    | none => false
  (s.underWay.filter meets).foldl (fun (s : State) b => match s.placeNow b with
    | some p =>
      let t : State := { s with agenda := s.agenda.filter fun e => e.ev != Instr.remoteAccessArrival b }
      (t.applyRest b p).settleWindow b.key
    | none => s) s

/-- A leaf's word with the mark SEAL. -/
def leafSealed (w : W64) : W64 := w ||| (0x80000000000000 : W64)

/-- The word of a page of a context as it stands: a page of a sealed range keeps SEAL, which only a change of life-cycle state undoes
(R385). -/
def Context.keepSeal (x : Context) (va : Nat) (w : W64) : W64 :=
  if bitOf 63 w.toNat ∧ x.sealed.any (fun r => rangesMeet r.1 r.2 va (pageBytes (leafSz w))) then leafSealed w else w

/-- The 64 KiB frames of this module's HBM that a leaf names, by number. -/
def State.framesOf (s : State) (x : Context) (w : W64) : List Nat :=
  let bays := if leafStripe w = 0 then [leafHome w] else match x.stripe? (leafStripe w) with
    | some t => (t.members.filter fun m => m.1 == s.node.toNat).map (·.2)
    | none => []
  bays.flatMap fun b => (List.range (pageBytes (leafSz w) / 2 ^ 16)).map fun i => memAddr b (leafFrame w) / 2 ^ 16 + i

/-- Frames read under another key than they were written under hold nothing that was written (R383, R384). [DESIGN CHOICE: log 72] -/
def State.loseFrames (s : State) (fs : List Nat) : State :=
  if fs.isEmpty then s
  else { s.memWrite (fs.flatMap fun f => (List.range (2 ^ 16)).map fun i => (f * 2 ^ 16 + i, Config.lostByte s.fresh (f * 2 ^ 16 + i))) with
         fresh := s.fresh + 1 }

/-- The number of the key that a context's HBM pages are encrypted under: its slot's, or 0 for none (R383, R384). -/
def Context.hbmKey (x : Context) : Nat := match x.key with | some k => if x.menc then k.num + 1 else 0 | none => 0

/-- The frames of a leaf mapped by a context: those last mapped under another key are lost (R384). [DESIGN CHOICE: log 72] -/
def State.keyFrames (s : State) (x : Context) (w : W64) : State :=
  let old := s.sys.frameKeys
  if !bitOf 63 w.toNat then s
  else
    let fs := s.framesOf x w
    let s := s.loseFrames (fs.filter fun f => old.any fun k => k.1 == f && k.2 != x.hbmKey)
    { s with sys := { s.sys with frameKeys := (old.filter fun k => !fs.contains k.1) ++ fs.map fun f => (f, x.hbmKey) } }

/-- Leaves written in every replica, and their pages invalidated (R377). [DEDUCED: log 60] -/
def State.mapNow (s : State) (ctx va : Nat) (w : W64) (n : Nat) : State :=
  let size := pageBytes (leafSz w)
  let s := s.finishRange ctx va (n * size)
  let s := match s.ctx? ctx with
    | some x => (List.range n).foldl (fun (s : State) i => s.keyFrames x (leafStep w i)) s
    | none => s
  (s.onCtx ctx fun x =>
    let y := x.unmap va (n * size)
    { y with leaves := y.leaves ++ (List.range n).map fun i => ⟨(va + i * size) / 2 ^ 16, x.keepSeal (va + i * size) (leafStep w i)⟩ }).flushTlb
    ctx va (n * size)

/-- Whether a migration under way covers part of a range. -/
def State.underMigration (s : State) (ctx va len : Nat) : Bool :=
  s.cp.migrations.any fun j => j.ctx == ctx && rangesMeet j.va j.len va len

/-- The accepted operations of a context with a byte in a range that are not over. -/
def State.acceptedIn (s : State) (ctx va len : Nat) (sel : COp → Bool) : List (Nat × Nat) :=
  (s.coresOf ctx).flatMap fun r => ((s.coreAt r).ops.filter fun o =>
    o.stage != .queued && !(o.stage == .localDone && (o.drained || !o.outward)) && sel o &&
      o.phys.any fun e => rangesMeet (e.1 * 256) 256 va len).map fun o => (r, o.id)

/-- Whether all of some operations are over. -/
def State.jobOver (s : State) (j : PageJob) (toMoving : Bool) : Bool :=
  !j.waits.any fun p => match (s.coreAt (s.redirect p.1 p.2)).op? p.2 with
    | some o => if toMoving then o.stage == .moving else !(o.stage == .localDone && (o.drained || !o.outward))
    | none => false

/-- Whether a leaf may stand at a range of a context: a yard page is not weathered, and a page of a region is a yard page in the slice of
its home bay (R319). [DEDUCED: log 145] -/
def State.yardMap (s : State) (ctx va len : Nat) (w : W64) : Bool :=
  !bitOf 63 w.toNat || (!(leafYard w && leafWth w) &&
    s.regions.all fun g => !(g.key.ctx == ctx && rangesMeet g.base g.len va len) ||
      (leafYard w && leafStripe w == 0 && leafHome w == g.home))

/-- MAP: a leaf for each of 1 to 4,096 pages, at once or after a migration that it covers. -/
def execMapPages (c : Cmd) (s : State) : Result :=
  let w := c.w2
  let va := c.w1.toNat
  let n := c.w3.toNat
  let size := pageBytes (leafSz w)
  let bad : Bool := (bitOf 63 w.toNat && !leafOk w) || leafSz w == 3 || n == 0 || decide (4096 < n) || va % size != 0 || decide (2 ^ 57 < va + n * size) ||
    !s.yardMap c.ctx.toNat va (n * size) w
  .next (s.command 0x05 c (orWords [c.w4, c.w5, c.w6, c.w7]) (if bad then 2 else 0) fun seq s =>
    if s.underMigration c.ctx.toNat va (n * size) then
      { s with cp := { s.cp with maps := s.cp.maps ++ [⟨seq, c.ctx.toNat, c.tag, false, n, w, va, n * size, []⟩] } }
    else s.mapNow c.ctx.toNat va w n)

/-- An INVAL begins: the entries are removed, and what was accepted under them must complete (R377). -/
def State.beginInval (s : State) (j : PageJob) : State :=
  let s := s.finishRange j.ctx j.va j.len
  let ws : List (Nat × Nat) := s.acceptedIn j.ctx j.va j.len fun _ => true
  let s : State := ((s.onCtx j.ctx fun x => x.unmap j.va j.len).flushTlb j.ctx j.va j.len)
  ({ s with cp := { s.cp with invals := s.cp.invals.map fun (i : PageJob) => if i.seq = j.seq then { i with begun := true, waits := ws } else i } }).after
    1 none (.invalComplete j.seq)

/-- INVAL. -/
def execInval (c : Cmd) (s : State) : Result :=
  let bad : Bool := decide (2 ^ 57 < c.w1.toNat + c.w2.toNat)
  .next (s.command 0x06 c (orWords [c.w3, c.w4, c.w5, c.w6, c.w7]) (if bad then 2 else 0) fun seq s =>
    let j : PageJob := ⟨seq, c.ctx.toNat, c.tag, false, 0, 0, c.w1.toNat, c.w2.toNat, []⟩
    let s : State := { s with cp := { s.cp with invals := s.cp.invals ++ [j] } }
    if s.underMigration j.ctx j.va j.len then s else s.beginInval j)

/-- INVAL_COMPLETE: its record, once every access accepted under a removed entry has completed (R377). -/
def execInvalComplete (seq : Nat) (s : State) : Result :=
  .next (match s.cp.invals.find? fun j => j.seq == seq with
    | none => s
    | some j =>
      if !j.begun then s
      else if s.jobOver j false then
        ({ s with cp := { s.cp with invals := s.cp.invals.filter fun i => i.seq != seq } }).complete seq j.ctx j.tag
      else s.after 1 none (.invalComplete seq))

/-- Accesses that wait at windows of a context for the fault of a page: refused with 0x06, or tried again (R246, R378); then what their
intervals and exposures waited for (R247, R248). -/
def State.replyHeld (s : State) (ctx page : Nat) (refuse : Bool) : State :=
  ((s.windows.filter fun w => w.key.ctx == ctx).foldl (fun s w =>
    let hit (a : Access) : Bool := refuse && a.pages.contains page
    let gone := w.stalled.filter hit
    let s : State := s.onWindow w.key fun w =>
      { w with stalled := (w.stalled.filter fun a => !hit a).map fun a => { a with pages := a.pages.filter (· != page) } }
    (gone.foldl (fun s a => s.refuseAccess a 6) s).retryHeld w.key) s).settleReady (4 * s.windows.length + 4)

/-- The answer to a page's fault parked as a fill at the saved cores of a kernel whose operations or walkers wait for it (R356). -/
def Kernel.fill (k : Kernel) (page : Nat) (no : Bool) : Kernel :=
  let entry (c : Core) (name op : Nat) : Parked := ⟨k.seq, c.ref, .fill, name, if no then 2 else 0, [], op, page⟩
  { k with saved := k.saved.map fun r => { r with replies := r.replies ++
      ((r.core.ops.filter fun o => o.faulted.contains page).map fun o => entry r.core o.f.tO.toNat o.id) ++
      ((r.core.walkers.filter fun w => w.pages.contains page).map fun w => entry r.core 0 w.op) } }

/-- FAULTREPLY: retry walks again; refuse, and a retry that finds a malformed entry, end every waiting access with status 2
(R378). -/
def execFaultreply (c : Cmd) (s : State) : Result :=
  let ctx := c.ctx.toNat
  let id := c.w1.toNat
  let st := if 2 ≤ c.w2.toNat then 2
    else match s.ctx? ctx with
      | some x => if x.faults.any fun f => f.id == id then 0 else 5
      | none => 5
  .next (s.command 0x07 c (orWords [c.w3, c.w4, c.w5, c.w6, c.w7]) st fun _ s =>
    match s.ctx? ctx with
    | none => s
    | some x => match x.faults.find? fun f => f.id == id with
      | none => s
      | some f =>
        if f.answered then s
        else
          let no : Bool := c.w2 == 1 || x.walk (f.page * 2 ^ 16) == .malformed
          let s : State := s.onCtx ctx fun x => { x with faults := x.faults.map fun g => if g.id = id then { g with answered := true } else g }
          let s : State := { s with kernels := s.kernels.map fun k => if k.ctx = ctx then k.fill f.page no else k }
          let s : State := (s.coresOf ctx).foldl (fun s r =>
            let t := s.onCore r fun c => c.pageOver f.page no
            if (s.coreAt r).walkers.any fun w => w.pages.contains f.page then t.walkAgain r else t) s
          s.replyHeld ctx f.page no)

/-- The mark MIG of a leaf set or cleared. -/
def leafMark (w : W64) (on : Bool) : W64 := if on then w ||| (0x40000000000000 : W64) else w &&& ~~~(0x40000000000000 : W64)

/-- The word of the leaf at a page changed. -/
def Context.onLeaf (x : Context) (va : Nat) (f : W64 → W64) : Context :=
  { x with leaves := x.leaves.map fun l => if l.page = va / 2 ^ 16 then { l with word := f l.word } else l }

/-- MIGRATE: refused for a yard page, an unmapped one or a malformed leaf; else the page is marked migrating (R275, R380). -/
def execMigrate (c : Cmd) (s : State) : Result :=
  let va := c.w1.toNat
  let ctx := c.ctx.toNat
  let leaf : Option Leaf := (s.ctx? ctx).bind fun x => x.leaves.find? fun l => l.page * 2 ^ 16 == va
  let ok (l : Leaf) : Bool :=
    leafOk l.word && leafOk c.w2 && !leafYard l.word && !leafYard c.w2 && leafSz l.word == leafSz c.w2 && !leafMig l.word
  .next (s.command 0x08 c (orWords [c.w3, c.w4, c.w5, c.w6, c.w7]) (if leaf.any ok then 0 else 2) fun seq s =>
    let len := pageBytes (leafSz c.w2)
    let ws : List (Nat × Nat) := s.acceptedIn ctx va len fun o => o.stage == .moving
    let s : State := s.onCtx ctx fun x => x.onLeaf va fun w => leafMark w true
    ({ s with cp := { s.cp with migrations := s.cp.migrations ++ [(⟨seq, ctx, c.tag, true, 1, c.w2, va, len, ws⟩ : PageJob)] } }).after
      1 none (.migrateComplete seq))

/-- The module-memory addresses of a page's bytes under a leaf, byte by byte; none for a byte of another module. -/
def Context.pageAddrs (x : Context) (node va len : Nat) (w : W64) : List (Option Nat) :=
  (List.range len).map fun i => match x.homeOf node w (va + i) with
    | some (nd, bay, off) => if nd = node then some (memAddr bay off) else none
    | none => none

/-- The page copied bit for bit, poison with it (R275 step 4). -/
def State.copyPage (s : State) (x : Context) (j : PageJob) (old : W64) : State :=
  let ps := ((x.pageAddrs s.node.toNat j.va j.len old).zip (x.pageAddrs s.node.toNat j.va j.len j.leaf)).filterMap fun p => match p with
    | (some a, some b) => some (a, b)
    | _ => none
  let bad := (ps.filter fun p => s.poisoned p.1).map fun p => p.2 / 64
  let lines := (ps.map fun p => p.1 / 256).dedup
  let s : State := s.writeBack lines
  let s : State := s.memWrite (ps.map fun p => (p.2, s.memByte p.1))
  { s with poison := (s.poison.filter fun b => !ps.any fun p => p.2 / 64 == b) ++ bad.dedup }

/-- What waited for a migration of its range: MAPs, then INVALs (R380). A MAP that a region set up meanwhile rules out has no effect.
[DEDUCED: log 145] -/
def State.afterMigration (s : State) : State :=
  let free (j : PageJob) : Bool := !s.underMigration j.ctx j.va j.len
  let ms := s.cp.maps.filter free
  let s : State := { s with cp := { s.cp with maps := s.cp.maps.filter fun j => !free j } }
  let s : State := ms.foldl (fun s j => if s.yardMap j.ctx j.va j.len j.leaf then s.mapNow j.ctx j.va j.leaf j.pages else s) s
  (s.cp.invals.filter fun j => !j.begun && free j).foldl State.beginInval s

/-- MIGRATE_COMPLETE: accesses drained, the page is copied and switched, and what was held goes on against the new page (R275).
[DEDUCED: log 61] -/
def execMigrateComplete (seq : Nat) (s : State) : Result :=
  .next (match s.cp.migrations.find? fun j => j.seq == seq with
    | none => s
    | some j =>
      if !s.jobOver j true then s.after 1 none (.migrateComplete seq)
      else match s.ctx? j.ctx with
        | none => s
        | some x =>
          let s : State := s.keyFrames x j.leaf
          let s : State := match x.leaf? j.va with | some old => s.copyPage x j old | none => s
          let s : State := (s.onCtx j.ctx fun x => x.onLeaf j.va fun _ => x.keepSeal j.va (leafMark j.leaf false)).flushTlb j.ctx j.va j.len
          let node := s.node.toNat
          let move1 (e : Nat × Nat) : Nat × Nat :=
            if rangesMeet (e.1 * 256) 256 j.va j.len then match x.homeOf node j.leaf (e.1 * 256) with
              | some (_, bay, off) => (e.1, memAddr bay off)
              | none => e
            else e
          let move (c : Core) : Core := { c with ops := c.ops.map fun o => { o with phys := o.phys.map move1 } }
          let s : State := (s.coresOf j.ctx).foldl (fun s r => s.onCore r move) s
          let s : State := { s with cp := { s.cp with migrations := s.cp.migrations.filter fun i => i.seq != seq } }
          let s : State := (s.complete seq j.ctx j.tag).afterMigration
          ((s.windows.filter fun w => w.key.ctx == j.ctx).foldl (fun s w => s.retryHeld w.key) s).settleReady (4 * s.windows.length + 4))

/-- STRIPESET (R376). -/
def execStripeset (c : Cmd) (s : State) : Result :=
  let n := c.w1.toNat
  let p := c.w2.toNat
  let ms := (List.range p).map fun i => s.memNat (c.w3.toNat + 2 * i) 2
  let bad : Bool := n == 0 || decide (256 ≤ n) || !stripeCountOk p || !memOk c.w3.toNat (2 * p) || ms.any fun m => field 15 13 m != 0
  let named : Bool := match s.ctx? c.ctx.toNat with | some x => x.leaves.any fun l => leafStripe l.word == n | none => false
  .next (s.command 0x10 c (orWords [c.w4, c.w5, c.w6, c.w7]) (if bad then 2 else if named then 4 else 0) fun _ s =>
    s.onCtx c.ctx.toNat fun x =>
      { x with stripes := (x.stripes.filter fun t => t.num != n) ++ [⟨n, ms.map fun m => (field 12 3 m, field 2 0 m)⟩] })

/-! ## Seals (R385) -/

/-- Whether every page of a range is mapped, in one home bay, and neither yard nor weathered. -/
def Context.sealable (x : Context) (va len : Nat) : Bool :=
  let ws := (List.range (len / 2 ^ 16)).map fun i => x.leaf? (va + i * 2 ^ 16)
  ws.all fun w => match w, ws.head? with
    | some w, some (some v) => leafOk w && leafStripe w == 0 && leafHome w == leafHome v && !leafYard w && !leafWth w
    | _, _ => false

/-- SEAL: the leaves are marked and invalidated; the digest follows once the accepted writes have completed. -/
def execSeal (c : Cmd) (s : State) : Result :=
  let va := c.w1.toNat
  let len := c.w2.toNat
  let ctx := c.ctx.toNat
  let ok : Bool := va % 2 ^ 16 == 0 && len % 2 ^ 16 == 0 && len != 0 && decide (va + len ≤ 2 ^ 57) &&
    (match s.ctx? ctx with | some x => x.sealable va len | none => false)
  .next (s.command 0x0E c (orWords [c.w3, c.w4, c.w5, c.w6, c.w7]) (if ok then 0 else 2) fun seq s =>
    let s := s.finishRange ctx va len
    let ws : List (Nat × Nat) := s.acceptedIn ctx va len fun o => o.outward
    let mark (l : Leaf) : Leaf :=
      if rangesMeet (l.page * 2 ^ 16) (pageBytes (leafSz l.word)) va len then { l with word := leafSealed l.word } else l
    let s : State := (s.onCtx ctx fun x => { x with leaves := x.leaves.map mark, sealed := x.sealed ++ [(va, len)] }).flushTlb ctx va len
    ({ s with cp := { s.cp with seals := s.cp.seals ++ [(⟨seq, ctx, c.tag, true, 0, 0, va, len, ws⟩ : PageJob)] } }).after 1 none (.sealComplete seq))

/-- SEAL_COMPLETE: the digest of the region's bytes joins the attestation set (R385). -/
def execSealComplete (seq : Nat) (s : State) : Result :=
  .next (match s.cp.seals.find? fun j => j.seq == seq with
    | none => s
    | some j =>
      if !s.jobOver j false then s.after 1 none (.sealComplete seq)
      else
        let bytes := (List.range j.len).map fun i => match s.phys? j.ctx (j.va + i) with | some a => s.readByte a | none => 0
        let s : State := { s with cp := { s.cp with seals := s.cp.seals.filter fun i => i.seq != seq },
                                  sys := { s.sys with seals := s.sys.seals ++ [⟨j.ctx, j.va, j.len, Config.sha512 bytes⟩] } }
        s.complete seq j.ctx j.tag)

/-! ## The yard and the rates (R305, R320, R325, R327, R362) -/

/-- YARDREG. [DEDUCED: log 84] -/
def execYardreg (c : Cmd) (s : State) : Result :=
  let ctx := c.ctx.toNat
  let base := c.w1.toNat
  let len := c.w2.toNat
  let fcap := c.w3.toNat
  let d := c.w4.toNat
  let rid := field 3 0 d
  let home := field 10 8 d
  let pages : Bool := match s.ctx? ctx with
    | none => false
    | some x => (List.range (len / 2 ^ 16)).all fun i => match x.leaf? (base + i * 2 ^ 16) with
      | some w => leafOk w && leafYard w && !leafWth w && leafStripe w == 0 && leafHome w == home
      | none => false
  let bad : Bool := field 7 4 d != 0 || field 63 11 d != 0 || base % 2 ^ 16 != 0 || len % 2 ^ 16 != 0 || len == 0 || decide (2 ^ 40 < len) ||
    decide (fcap < 256) || decide (2 ^ 20 < fcap) || decide (2 ^ Nat.log2 fcap ≠ fcap) || !pages ||
    (s.region? ⟨ctx, rid⟩).isSome || s.regions.any fun g => g.key.ctx == ctx && rangesMeet g.base g.len base len
  let area := Config.tableArea ctx rid s.cp.nextSeq
  .next (s.command 0x0A c (orWords [c.w5, c.w6, c.w7]) (if bad then 2 else if area.isNone then 4 else 0) fun _ s =>
    { s with regions := s.regions ++ [⟨⟨ctx, rid⟩, base, len, 0, 0, fcap, home, 0, [], [], area.getD 0⟩] })

/-- RELAY: the batch header is checked now, its moves at the batch's turn (R325). -/
def execRelay (c : Cmd) (s : State) : Result :=
  let a := c.w1.toNat
  let h := s.memNat a 16
  let key : RegKey := ⟨c.ctx.toNat, field 19 16 h⟩
  let st := if !memOk a (16 + 16 * field 15 0 h) ∨ field 127 20 h ≠ 0 ∨ field 15 0 h = 0 ∨ 256 < field 15 0 h then 2 else if (s.region? key).isNone then 5 else 0
  .next (s.command 0x0B c (orWords [c.w2, c.w3, c.w4, c.w5, c.w6, c.w7]) st fun seq s =>
    let moves := (List.range (field 15 0 h)).map fun i => (s.memNat (a + 16 + 16 * i) 8, s.memNat (a + 24 + 16 * i) 8)
    s.submitJob key (.batch ⟨seq, c.tag, moves, none, [], [], []⟩))

/-- EPOCH: the advance takes its place among the region's jobs (R327). [DEDUCED: log 59] -/
def execEpoch (c : Cmd) (s : State) : Result :=
  let key : RegKey := ⟨c.ctx.toNat, c.w1.toNat⟩
  let st := if 16 ≤ c.w1.toNat then 2 else if (s.region? key).isNone then 5 else 0
  .next (s.command 0x0C c (orWords [c.w2, c.w3, c.w4, c.w5, c.w6, c.w7]) st fun seq s => s.submitJob key (.advance seq c.tag))

/-- RATES: the 24 words of one rate; refused with status 4 while a kernel of the context is bound (R305). -/
def execRates (c : Cmd) (s : State) : Result :=
  let ctx := c.ctx.toNat
  let bound := s.kernels.any fun k => k.ctx == ctx && k.placed
  let st := if 32 ≤ c.w2.toNat ∨ !memOk c.w1.toNat 96 then 2 else if bound then 4 else 0
  .next (s.command 0x0D c (orWords [c.w3, c.w4, c.w5, c.w6, c.w7]) st fun _ s =>
    let ws := (List.range 24).map fun i => (c.w2.toNat * 24 + i, BitVec.ofNat 32 (s.memNat (c.w1.toNat + 4 * i) 4))
    s.onCtx ctx fun x => { x with rates := Sparse.setAll 0x3F800000 x.rates ws })

/-! ## READ (R364) -/

/-- A window status as R244 lays it out. -/
def WinStatus.word (w : WinStatus) : Nat :=
  w.loff % 2 ^ 40 * 2 ^ 216 + w.llen % 2 ^ 24 * 2 ^ 192 + w.foff % 2 ^ 40 * 2 ^ 152 + w.flen % 2 ^ 24 * 2 ^ 128 + w.count * 2 ^ 96 +
    w.lorig % 2 ^ 13 * 2 ^ 83 + w.lcause % 16 * 2 ^ 76 + w.lopc % 256 * 2 ^ 64 + w.forig % 2 ^ 13 * 2 ^ 51 + w.fcause % 16 * 2 ^ 44 +
    w.fopc % 256 * 2 ^ 32 + w.ftime

/-- An unmatched-access record (R364). -/
def Unmatched.word (u : Unmatched) : Nat :=
  u.count.toNat * 2 ^ 64 + u.node % 2 ^ 10 * 2 ^ 54 + u.ord % 2 ^ 13 * 2 ^ 41 + u.win % 256

/-- A weathering record (R313). -/
def Weathering.word (w : Weathering) : Nat :=
  w.swept.toNat * 2 ^ 192 + w.zeroed.toNat * 2 ^ 128 + w.stahead.toNat * 2 ^ 64 + min w.malformed (2 ^ 32 - 1) * 2 ^ 32 +
    min w.lag (2 ^ 16 - 1) * 2 ^ 16

/-- A queue status (R364). -/
def TaskQueue.word (q : TaskQueue) : Nat :=
  q.ovrn * 2 ^ 224 + q.fillTakes.length * 2 ^ 192 + q.freeTakes.length * 2 ^ 160 + q.cap * 2 ^ 128 + q.fill.toNat * 2 ^ 64 + q.free.toNat

/-- A trace buffer's bytes, oldest record first. -/
def Trace.bytes (t : Trace) : List Byte :=
  (t.records.flatMap fun r => bytesOf 16 r.toNat) ++ List.replicate (65536 - 16 * t.records.length) 0

/-- KIND (R390). -/
def JKind.code : JKind → Nat
  | .accepted => 1
  | .refused => 2
  | .completion => 3
  | .contextFault => 4
  | .translationFault => 5
  | .relay => 6
  | .unitFenced => 7
  | .memoryEvent => 8
  | .lifeCycle => 9
  | .windowStatus => 10

/-- END (R391). -/
def KEnd.code : KEnd → Nat
  | .halted => 0
  | .killed => 1
  | .faulted => 2

/-- FECORE, FESTAT and FEID, from bit 640 of a record (R391). -/
def FirstError.word (e : FirstError) : Nat :=
  e.core % 2 ^ 16 * 2 ^ 16 + e.status % 2 ^ 8 * 2 ^ 8 + (if e.isHandle then 2 ^ 7 else 0) + e.num % 2 ^ 6

/-- The BODY of a record, as bits of the record: a kernel's completion and a window status as R391 lays them out. -/
def JBody.word : JBody → Nat
  | .empty => 0
  | .kernelEnd stalls unaw uncov first nwin retire bound how =>
      (stalls.map fun p => p.2 % 2 ^ 32 * 2 ^ (704 + 32 * p.1)).sum + unaw % 2 ^ 32 * 2 ^ 704 + uncov % 2 ^ 32 * 2 ^ 672 +
        (first.map FirstError.word).getD 0 * 2 ^ 640 + nwin % 2 ^ 32 * 2 ^ 608 + retire.toNat * 2 ^ 512 + bound.toNat * 2 ^ 448 + how.code * 2 ^ 256
  | .window w win rank => rank % 2 ^ 13 * 2 ^ 456 + win % 2 ^ 8 * 2 ^ 448 + w.word * 2 ^ 192
  | b => (Config.bodyBits b).toNat * 2 ^ 192

/-- Bits [191:0] of a record, which are the same in every kind (R390). -/
def JRecord.low (r : JRecord) : Nat :=
  r.ref % 2 ^ 64 * 2 ^ 128 + r.tag.toNat * 2 ^ 96 + r.ctx % 2 ^ 16 * 2 ^ 80 + r.status % 2 ^ 8 * 2 ^ 72 + r.kind.code * 2 ^ 64 + r.seq % 2 ^ 64

/-- A record as R390 lays it out. -/
def JRecord.word (r : JRecord) : Nat := r.body.word + r.low

/-- What the host reads through its window at a place of the ring: the last record that was put there (R390). [DESIGN CHOICE: log 77] -/
def CommandProc.window (p : CommandProc) (i : Nat) : Option Nat :=
  ((p.journal.filter fun r => (r.seq - 1) % 2 ^ 20 == i).getLast?).map JRecord.word

/-- What a READ copies, or the status of its refusal. -/
def State.readRecord (s : State) (ctx kind sel : Nat) : Except Nat (List Byte) :=
  match s.ctx? ctx with
  | none => .error 5
  | some x =>
    if kind = 1 then
      if 2 ^ 11 ≤ sel then .error 2
      else match s.window? ⟨field 10 8 sel, ctx, field 7 0 sel⟩ with
        | some w => if w.live then .ok (bytesOf 32 w.status.word) else .error 5
        | none => .error 5
    else if kind = 2 then
      if 8 ≤ sel then .error 2 else .ok (bytesOf 16 (Sparse.get {} x.unmatched sel).word)
    else if kind = 3 then
      if 8 ≤ sel then .error 2 else .ok (bytesOf 32 (Sparse.get {} x.weathering sel).word)
    else if kind = 4 then
      if 2 ^ 11 ≤ sel then .error 2
      else if 192 ≤ field 7 0 sel then .error 5
      else
        let c := s.coreAt (field 10 8 sel * 192 + field 7 0 sel)
        match s.kernel? c.last with
        | none => .error 5
        | some k => if k.ctx ≠ ctx then .error 5 else if k.placed then .error 4 else .ok c.trace.bytes
    else if kind = 5 then
      if 2 ^ 16 ≤ sel then .error 2
      else match s.queue? ctx sel with
        | some q => .ok (bytesOf 32 q.word)
        | none => .error 5
    else .error 2

/-- READ: a record copied to module memory, then the completion record. -/
def execReadRecord (c : Cmd) (s : State) : Result :=
  let r := s.readRecord c.ctx.toNat c.w1.toNat c.w2.toNat
  let st := match r with
    | .error e => e
    | .ok bs => if c.w3.toNat % 64 ≠ 0 ∨ !memOk c.w3.toNat bs.length then 2 else 0
  .next (s.command 0x0F c (orWords [c.w4, c.w5, c.w6, c.w7]) st fun seq s =>
    match r with
    | .error _ => s
    | .ok bs => ((s.memStore (cellsAt c.w3.toNat bs)).1).complete seq c.ctx.toNat c.tag)

/-! ## The queues and the journal from the host's side (R360, R390) -/

/-- A command entry's words. -/
def Cmd.ofBits (n : Nat) : Cmd :=
  let w (i : Nat) : W64 := BitVec.ofNat 64 (n / 2 ^ (64 * i))
  ⟨BitVec.ofNat 32 (field 63 32 n), BitVec.ofNat 16 (field 31 16 n), BitVec.ofNat 8 (field 15 8 n), w 1, w 2, w 3, w 4, w 5, w 6, w 7⟩

/-- An entry by its opcode; any other opcode is refused with status 1 (R362). -/
def runEntry (opc : Nat) (c : Cmd) (s : State) : Result :=
  match opc with
  | 0x01 => execLaunch c s
  | 0x02 => execQcreate c s
  | 0x03 => execQfree c s
  | 0x04 => execKill c s
  | 0x05 => execMapPages c s
  | 0x06 => execInval c s
  | 0x07 => execFaultreply c s
  | 0x08 => execMigrate c s
  | 0x09 => execClasstab c s
  | 0x0A => execYardreg c s
  | 0x0B => execRelay c s
  | 0x0C => execEpoch c s
  | 0x0D => execRates c s
  | 0x0E => execSeal c s
  | 0x0F => execReadRecord c s
  | 0x10 => execStripeset c s
  | _ => .next (if s.canTake then s.journal ⟨0, .refused, 1, c.ctx.toNat, c.tag, 0, .entry opc c⟩ else s)

/-- The ring whose turn it is: the first from the round-robin mark with an entry. -/
def CommandProc.nextRing (p : CommandProc) : Option (Nat × Ring) :=
  ((List.range 16).map fun i => (p.turn + i) % 16).findSome? fun n => match p.rings.find? fun r => r.1 == n with
    | some r => if r.2.head ≠ r.2.tail then some r else none
    | none => none

/-- The command processor's work of one cc: at most one entry, one put off before those of the rings (R360, R363). -/
def State.cpTurn (s : State) : State :=
  if !s.canTake ∨ s.cp.lastAccept = some s.now then s
  else match s.cp.late with
  | (opc, c) :: rest =>
    let s : State := { s with cp := { s.cp with late := rest } }
    (match runEntry opc c s with
      | .next s => s
      | _ => s)
  | [] => match s.cp.nextRing with
    | none => s
    | some (n, r) =>
      let e := s.memNat (r.addr + 64 * r.head) 64
      let s : State := { s with cp := { s.cp with turn := (n + 1) % 16, rings := Sparse.put s.cp.rings n { r with head := (r.head + 1) % r.size } } }
      match runEntry (field 7 0 e) (Cmd.ofBits e) s with
      | .next s => s
      | _ => s

/-- SUBMISSION_QUEUE_TAIL_WRITE: entries become available in a ring of 2^k entries; the first write to a ring says where it
stands. [DESIGN CHOICE: log 56] -/
def execSubmissionQueueTailWrite (ring addr k tail : Nat) (s : State) : Result :=
  .next (
    if s.sys.boot ≠ BootStep.open_ ∨ 16 ≤ ring ∨ k < 4 ∨ 12 < k then s
    else match s.cp.rings.find? fun r => r.1 == ring with
      | some r => { s with cp := { s.cp with rings := Sparse.put s.cp.rings ring { r.2 with tail := tail % r.2.size } } }
      | none => { s with cp := { s.cp with rings := Sparse.put s.cp.rings ring ⟨addr, 2 ^ k, 0, tail % 2 ^ k⟩ } })

/-- JOURNAL_READ_INDEX_ADVANCE: the ring has room again, and held records are appended. -/
def execJournalReadIndexAdvance (upTo : Nat) (s : State) : Result :=
  .next (
    let held := s.cp.held
    let s : State := { s with cp := { s.cp with readIdx := max s.cp.readIdx (min upTo (s.cp.nextSeq - 1)), held := [] } }
    held.foldl State.journal s)

end Sys2Proof.Machine
end

