-- ==== Sys2Proof/Machine/Scalar.lean ====
section
/-! DEFINITION. Integer arithmetic and logic, address registers and wide constants of the S slot (R72 to R77). -/

namespace Sys2Proof.Machine

/-! ## The functions of R74 -/

/-- Bits [127:64] of the exact product. -/
def mulHigh (signed : Bool) (x y : W64) : W64 :=
  if signed then BitVec.ofInt 64 (x.toInt * y.toInt / 2 ^ 64) else BitVec.ofNat 64 (x.toNat * y.toNat / 2 ^ 64)

/-- The quotient truncated toward zero; a divisor of 0 gives all ones and sets DZ. -/
def divide (signed : Bool) (x y : W64) : W64 × Flags :=
  if y = 0 then (BitVec.allOnes 64, Flags.divZero)
  else (if signed then BitVec.ofInt 64 (x.toInt.tdiv y.toInt) else BitVec.ofNat 64 (x.toNat / y.toNat), {})

/-- The remainder with the sign of the dividend; a divisor of 0 gives the dividend and sets DZ. -/
def remainder (signed : Bool) (x y : W64) : W64 × Flags :=
  if y = 0 then (x, Flags.divZero)
  else (if signed then BitVec.ofInt 64 (x.toInt.tmod y.toInt) else BitVec.ofNat 64 (x.toNat % y.toNat), {})

/-- The shift count: the low six bits. -/
def shiftCount (y : W64) : Nat := y.toNat % 64

/-- Rotate right. -/
def rotR (x : W64) (n : Nat) : W64 := BitVec.ofNat 64 (x.toNat >>> n ||| x.toNat <<< (64 - n))

/-- Signed or unsigned less-than. -/
def lessW (signed : Bool) (x y : W64) : Bool := if signed then decide (x.toInt < y.toInt) else decide (x.toNat < y.toNat)

/-- The lesser under a signedness. -/
def minW (signed : Bool) (x y : W64) : W64 := if lessW signed y x then y else x
/-- The greater under a signedness. -/
def maxW (signed : Bool) (x y : W64) : W64 := if lessW signed x y then y else x

/-- Number of set bits among the low n. -/
def popCount (n x : Nat) : Nat := ((List.range n).filter fun i => bitOf i x).length

/-- Number of leading zeros of an n-bit pattern. -/
def leadZeros (n x : Nat) : Nat := if x = 0 then n else n - 1 - Nat.log2 x

/-- FN[0]: 1 signed (R55). -/
def fnSigned (f : RForm) : Bool := bitOf 0 f.fn.toNat

/-! ## R forms (R74) -/

/-- ADD. -/
def execAdd (f : RForm) (s : State) : Result := scalarR f 1 (quiet (· + ·)) s
/-- SUB. -/
def execSub (f : RForm) (s : State) : Result := scalarR f 1 (quiet (· - ·)) s
/-- MUL. -/
def execMul (f : RForm) (s : State) : Result := scalarR f 1 (quiet (· * ·)) s
/-- MULH. -/
def execMulh (f : RForm) (s : State) : Result := scalarR f 1 (quiet (mulHigh (fnSigned f))) s
/-- DIV. -/
def execDiv (f : RForm) (s : State) : Result := scalarR f 18 (divide (fnSigned f)) s
/-- REM. -/
def execRem (f : RForm) (s : State) : Result := scalarR f 18 (remainder (fnSigned f)) s
/-- AND. -/
def execAnd (f : RForm) (s : State) : Result := scalarR f 1 (quiet (· &&& ·)) s
/-- OR. -/
def execOr (f : RForm) (s : State) : Result := scalarR f 1 (quiet (· ||| ·)) s
/-- XOR. -/
def execXor (f : RForm) (s : State) : Result := scalarR f 1 (quiet (· ^^^ ·)) s
/-- ANDN. -/
def execAndn (f : RForm) (s : State) : Result := scalarR f 1 (quiet fun x y => x &&& ~~~y) s
/-- SHL. -/
def execShl (f : RForm) (s : State) : Result := scalarR f 1 (quiet fun x y => x <<< shiftCount y) s
/-- SHR. -/
def execShr (f : RForm) (s : State) : Result := scalarR f 1 (quiet fun x y => x >>> shiftCount y) s
/-- SRA. -/
def execSra (f : RForm) (s : State) : Result := scalarR f 1 (quiet fun x y => x.sshiftRight (shiftCount y)) s
/-- ROT. -/
def execRot (f : RForm) (s : State) : Result := scalarR f 1 (quiet fun x y => rotR x (shiftCount y)) s
/-- MIN. -/
def execMin (f : RForm) (s : State) : Result := scalarR f 1 (quiet (minW (fnSigned f))) s
/-- MAX. -/
def execMax (f : RForm) (s : State) : Result := scalarR f 1 (quiet (maxW (fnSigned f))) s
/-- CLZ. -/
def execClz (f : RForm) (s : State) : Result := scalarR f 1 (quiet fun x _ => BitVec.ofNat 64 (leadZeros 64 x.toNat)) s
/-- POPC. -/
def execPopc (f : RForm) (s : State) : Result := scalarR f 1 (quiet fun x _ => BitVec.ofNat 64 (popCount 64 x.toNat)) s
/-- SEL: x where p[FN] is true. -/
def execSel (f : RForm) (s : State) : Result := scalarR f 1 (quiet fun x y => if s.core.rp f.fn.toNat then x else y) s

/-- The relation of CMP that FN names (R55, R75). -/
def cmpHolds (fn : Nat) (x y : W64) : Bool :=
  match fn with
  | 0 => x == y
  | 1 => x != y
  | 2 => lessW true x y
  | 3 => !lessW true x y
  | 4 => lessW false x y
  | _ => !lessW false x y

/-- CMP (R75). -/
def execCmp (f : RForm) (s : State) : Result :=
  guarded (s.core.rp f.pg.toNat) s fun s => s.mapCore fun c =>
    c.later .s 1 [.p f.sd.toNat (cmpHolds f.fn.toNat (c.rs f.sa.toNat) (c.rs f.sb.toNat))]

/-! ## I forms (R74) -/

/-- ADD_I. -/
def execAddI (f : IForm) (s : State) : Result := scalarI f 1 (sext f.imm) (quiet (· + ·)) s
/-- SUB_I. -/
def execSubI (f : IForm) (s : State) : Result := scalarI f 1 (sext f.imm) (quiet (· - ·)) s
/-- MUL_I. -/
def execMulI (f : IForm) (s : State) : Result := scalarI f 1 (sext f.imm) (quiet (· * ·)) s
/-- MULH_I. -/
def execMulhI (f : IForm) (s : State) : Result := scalarI f 1 (sext f.imm) (quiet (mulHigh true)) s
/-- DIV_I. -/
def execDivI (f : IForm) (s : State) : Result := scalarI f 18 (sext f.imm) (divide true) s
/-- REM_I. -/
def execRemI (f : IForm) (s : State) : Result := scalarI f 18 (sext f.imm) (remainder true) s
/-- AND_I. -/
def execAndI (f : IForm) (s : State) : Result := scalarI f 1 (zext f.imm) (quiet (· &&& ·)) s
/-- OR_I. -/
def execOrI (f : IForm) (s : State) : Result := scalarI f 1 (zext f.imm) (quiet (· ||| ·)) s
/-- XOR_I. -/
def execXorI (f : IForm) (s : State) : Result := scalarI f 1 (zext f.imm) (quiet (· ^^^ ·)) s
/-- ANDN_I. -/
def execAndnI (f : IForm) (s : State) : Result := scalarI f 1 (zext f.imm) (quiet fun x y => x &&& ~~~y) s
/-- SHL_I. -/
def execShlI (f : IForm) (s : State) : Result := scalarI f 1 (zext f.imm) (quiet fun x y => x <<< shiftCount y) s
/-- SHR_I. -/
def execShrI (f : IForm) (s : State) : Result := scalarI f 1 (zext f.imm) (quiet fun x y => x >>> shiftCount y) s
/-- SRA_I. -/
def execSraI (f : IForm) (s : State) : Result := scalarI f 1 (zext f.imm) (quiet fun x y => x.sshiftRight (shiftCount y)) s
/-- ROT_I. -/
def execRotI (f : IForm) (s : State) : Result := scalarI f 1 (zext f.imm) (quiet fun x y => rotR x (shiftCount y)) s
/-- MIN_I. -/
def execMinI (f : IForm) (s : State) : Result := scalarI f 1 (sext f.imm) (quiet (minW true)) s
/-- MAX_I. -/
def execMaxI (f : IForm) (s : State) : Result := scalarI f 1 (sext f.imm) (quiet (maxW true)) s

/-! ## Address registers and wide constants (R76, R77) -/

/-- AWR. -/
def execAwr (f : RForm) (s : State) : Result :=
  guarded (s.core.rp f.pg.toNat) s fun s => s.mapCore fun c => c.later .s 1 [.a f.sd.toNat (c.rs f.sa.toNat)]

/-- ARD. -/
def execArd (f : RForm) (s : State) : Result :=
  guarded (s.core.rp f.pg.toNat) s fun s => s.mapCore fun c => c.later .s 1 [.s f.sd.toNat (c.ra f.sa.toNat)]

/-- An address register moved on by an amount mod 2^24. -/
def aAdd (a : W64) (y : W64) : W64 := aWithOff a (aOff a + y.toNat)

/-- AINC. -/
def execAinc (f : RForm) (s : State) : Result :=
  guarded (s.core.rp f.pg.toNat) s fun s => s.mapCore fun c =>
    c.later .s 1 [.a f.sd.toNat (aAdd (c.ra f.sd.toNat) (c.rs f.sa.toNat))]

/-- AINC_I. -/
def execAincI (f : IForm) (s : State) : Result :=
  guarded (s.core.rp f.pg.toNat) s fun s => s.mapCore fun c =>
    c.later .s 1 [.a f.sd.toNat (aAdd (c.ra f.sd.toNat) (sext f.imm))]

/-- MOVI. -/
def execMovi (f : IForm) (s : State) : Result :=
  guarded (s.core.rp f.pg.toNat) s fun s => s.mapCore fun c => c.later .s 1 [.s f.sd.toNat (sext f.imm)]

/-- MOVHI. -/
def execMovhi (f : IForm) (s : State) : Result :=
  guarded (s.core.rp f.pg.toNat) s fun s => s.mapCore fun c =>
    c.later .s 1 [.s f.sd.toNat (BitVec.ofNat 64 (f.imm.toNat * 2 ^ 32 + (c.rs f.sd.toNat).toNat % 2 ^ 32))]

end Sys2Proof.Machine
end

