-- ==== Sys2Proof/Machine/Loop.lean ====
section
/-! DEFINITION. What the sequencer meets at its loop buffer: marked bundles, the end of a segment, the expander, results that land
(R65 to R72, R100, R215), and streamed mode (R217). -/

namespace Sys2Proof.Machine

/-- NOP: nothing is read, written or named (R46). -/
def execNop (_slot : Slot) (s : State) : Result := .next s

/-- ILLEGAL_ENCODING: the sequencer has reached a bundle marked as trapping (R69, R70). -/
def execIllegalEncoding (r : Reject) (s : State) : Result := .next (s.takeTrap (Trap.encoding r s.core.pos.unit))

/-- Whether the core stands at the end of a segment whose NEXT is null (R67). -/
def State.atSegmentEnd (s : State) : Bool :=
  match s.mine with
  | none => false
  | some k => match k.header s.core.pos.seg with
    | none => false
    | some h => h.next == none && h.len == s.core.pos.unit

/-- SEGMENT_END: reason 0x0D at the position (segment, LEN) (R67). -/
def execSegmentEnd (s : State) : Result :=
  .next (if s.atSegmentEnd then s.takeTrap (Trap.encoding ⟨0x0D, 0xFF, .header⟩ s.core.pos.unit) else s)

/-- Whether a half has a bundle to produce now (R215). -/
def Half.due (h : Half) (clk : Nat) : Bool := h.seg.isSome && !h.complete && decide (h.nextAt ≤ clk)

/-- A half after the expander's turn. -/
def Half.turn (h : Half) (k : Kernel) (idx clk : Nat) : Half := if h.due clk then h.expand k idx clk else h

/-- The dictionary entry that a half expands next. -/
def Half.entry (h : Half) (k : Kernel) : Option Nat :=
  match h.seg with
  | none => none
  | some g => if h.pos < (k.units g).length then some ((k.units g).getD h.pos 0).toNat else none

/-- The mark of a dictionary entry of a kernel image in a bay's store that must be read anew, and when its reload ends, where one has
begun (R388). -/
def State.spoiledAt (s : State) (k : Kernel) (bay e : Nat) : Option (Nat × (Nat × Nat) × Nat × Option Nat) :=
  s.spoiled.find? fun x => x.1 == bay && x.2.1 == k.imgKey && x.2.2.1 == e

/-- How long a half that is due waits for the reload of its next entry, which takes as long as a segment request (R215, R388); none where
the store holds it. [DESIGN CHOICE: log 86] -/
def State.reloadWait (s : State) (k : Kernel) (bay clk : Nat) (h : Half) : Option Nat :=
  if !h.due clk then none
  else (h.entry k).bind fun e => (s.spoiledAt k bay e).bind fun x => match x.2.2.2 with
    | none => some 32
    | some t => if t ≤ s.now then none else some (t - s.now)

/-- A half that is due after its turn, or made to wait for a reload. -/
def Half.turnOr (h : Half) (k : Kernel) (idx clk : Nat) : Option Nat → Half
  | none => h.turn k idx clk
  | some n => { h with nextAt := clk + n }

/-- The reload that a half asks for begins. -/
def State.reloading (s : State) (k : Kernel) (bay : Nat) (h : Half) (wait : Option Nat) : State :=
  if wait.isNone then s
  else { s with spoiled := s.spoiled.map fun x =>
    if x.1 = bay ∧ x.2.1 = k.imgKey ∧ some x.2.2.1 = h.entry k ∧ x.2.2.2 = none then (x.1, x.2.1, x.2.2.1, some (s.now + 32)) else x }

/-- EXPAND_BUNDLE: each half that is due produces its next bundle, checked (R65, R69, R215); one whose next dictionary entry must be
reloaded waits, and the core meets the wait as a segment miss (R388). -/
def execExpandBundle (s : State) : Result :=
  .next (match s.mine with
    | none => s
    | some k =>
      if s.spoiled.isEmpty then s.mapCore fun c => { c with cur := c.cur.turn k c.idx c.clk, idle := c.idle.turn k c.idx c.clk }
      else
        let c := s.core
        let bay := bayOf c.ref
        let w0 := s.reloadWait k bay c.clk c.cur
        let w1 := s.reloadWait k bay c.clk c.idle
        ((s.reloading k bay c.cur w0).reloading k bay c.idle w1).mapCore fun c => { c with
          cur := c.cur.turnOr k c.idx c.clk w0, idle := c.idle.turnOr k c.idx c.clk w1,
          trace := if w0.isSome ∧ c.item.isNone ∧ c.trace.miss = 0 then { c.trace with miss := 1 } else c.trace })

/-- Whether a slot is the S slot. -/
def inS (sl : Slot) : Bool := sl == .s
/-- Whether a slot is a vector slot or the K slot. -/
def inV (sl : Slot) : Bool := sl == .va || sl == .vb || sl == .k

/-- S_RESULT_LAND: the S results that are due are written (R72). -/
def execSResultLand (s : State) : Result := .next (s.mapCore fun c => c.landDue inS)

/-- V_RESULT_LAND: the vector results that are due are written, logged first, and their flags ORed into KSTATUS (R100, R101,
R339). -/
def execVResultLand (s : State) : Result := .next (s.mapCore fun c => c.landDue inV).settle

/-! ## Streamed mode (R217) -/

/-- The system registers GETSR may read in streamed mode. -/
def streamReg (f : IForm) : Bool :=
  let n := field 7 0 f.imm.toNat
  n == 8 || n == 14 || n == 15 || n == 16

/-- An S operation of streamed mode; none for any other. [DEDUCED: log 98] -/
def streamS (s : State) : Instr → Option Result
  | .nop _ => some (.next s)
  | .add f => some (execAdd f s)
  | .sub f => some (execSub f s)
  | .mul f => some (execMul f s)
  | .mulh f => some (execMulh f s)
  | .div f => some (execDiv f s)
  | .rem f => some (execRem f s)
  | .and f => some (execAnd f s)
  | .or f => some (execOr f s)
  | .xor f => some (execXor f s)
  | .andn f => some (execAndn f s)
  | .shl f => some (execShl f s)
  | .shr f => some (execShr f s)
  | .sra f => some (execSra f s)
  | .rot f => some (execRot f s)
  | .min f => some (execMin f s)
  | .max f => some (execMax f s)
  | .clz f => some (execClz f s)
  | .popc f => some (execPopc f s)
  | .sel f => some (execSel f s)
  | .cmp f => some (execCmp f s)
  | .awr f => some (execAwr f s)
  | .ard f => some (execArd f s)
  | .ainc f => some (execAinc f s)
  | .addI f => some (execAddI f s)
  | .subI f => some (execSubI f s)
  | .mulI f => some (execMulI f s)
  | .mulhI f => some (execMulhI f s)
  | .divI f => some (execDivI f s)
  | .remI f => some (execRemI f s)
  | .andI f => some (execAndI f s)
  | .orI f => some (execOrI f s)
  | .xorI f => some (execXorI f s)
  | .andnI f => some (execAndnI f s)
  | .shlI f => some (execShlI f s)
  | .shrI f => some (execShrI f s)
  | .sraI f => some (execSraI f s)
  | .rotI f => some (execRotI f s)
  | .minI f => some (execMinI f s)
  | .maxI f => some (execMaxI f s)
  | .aincI f => some (execAincI f s)
  | .movi f => some (execMovi f s)
  | .movhi f => some (execMovhi f s)
  | .lds f => some (execLds f s)
  | .sts f => some (execSts f s)
  | .getsr f => if streamReg f then some (execGetsr f s) else none
  | _ => none

/-- A V operation of streamed mode; none for any other. -/
def streamV (s : State) : Instr → Option Result
  | .nop _ => some (.next s)
  | .vadd f => some (execVadd f s)
  | .vsub f => some (execVsub f s)
  | .vmul f => some (execVmul f s)
  | .vfma f => some (execVfma f s)
  | .vfms f => some (execVfms f s)
  | .vmin f => some (execVmin f s)
  | .vmax f => some (execVmax f s)
  | .vabs f => some (execVabs f s)
  | .vneg f => some (execVneg f s)
  | .vmovi f => some (execVmovi f s)
  | .vand f => some (execVand f s)
  | .vor f => some (execVor f s)
  | .vxor f => some (execVxor f s)
  | .vnot f => some (execVnot f s)
  | .vshl f => some (execVshl f s)
  | .vshr f => some (execVshr f s)
  | .vsra f => some (execVsra f s)
  | .vpopc f => some (execVpopc f s)
  | .vclz f => some (execVclz f s)
  | .vsel f => some (execVsel f s)
  | .vqand f => some (execVqand f s)
  | .vqor f => some (execVqor f s)
  | .vqnot f => some (execVqnot f s)
  | .vcmpEq f => some (execVcmpEq f s)
  | .vcmpNe f => some (execVcmpNe f s)
  | .vcmpLt f => some (execVcmpLt f s)
  | .vcmpLe f => some (execVcmpLe f s)
  | .vcmpGt f => some (execVcmpGt f s)
  | .vcmpGe f => some (execVcmpGe f s)
  | .vld f => some (execVld f s)
  | .vst f => some (execVst f s)
  | _ => none

/-- The state of a result that is a next state. -/
def Result.state? : Result → Option State
  | .next s => some s
  | _ => none

/-- A byte of the flat pool written: the first 32 banks are the bytes of the vector registers, in order (R21, R217).
[PRESUMED: log 31] -/
def Core.flatPut (c : Core) (e : Nat) (b : Byte) : Core :=
  if e < 32 * bankBytes then
    let old := (Sparse.get 0 c.v (e / 4)).toNat
    let w := 256 ^ (e % 4)
    { c with v := Sparse.set 0 c.v (e / 4) (BitVec.ofNat 32 (old / (256 * w) * (256 * w) + b.toNat * w + old % w)) }
  else { c with pool := Sparse.set 0 c.pool e b }

/-- A core as streamed mode meets it: what its last kernel left in tiles and in scratchpad banks of the flat register file stands there
as bytes. -/
def Core.flatten (c : Core) : Core :=
  let zs := c.z.flatMap fun kv => cellsAt (partRf c.partword * bankBytes + 4 * kv.1) (bytesOf 4 kv.2.toNat)
  let ps := c.pool.filter fun kv => decide (kv.1 < 32 * bankBytes)
  (zs ++ ps).foldl (fun c kv => c.flatPut kv.1 kv.2) { c with z := [], pool := c.pool.filter fun kv => !decide (kv.1 < 32 * bankBytes) }

/-- The same core with the bytes of its vector registers in its pool, for reading. -/
def Core.flatView (c : Core) : Core := { c with pool := Sparse.setAll 0 c.pool (c.v.flatMap fun kv => cellsAt (4 * kv.1) (bytesOf 4 kv.2.toNat)) }

/-- The stores of a streamed bundle made. -/
def Core.flatStores (c : Core) (l : List (Nat × Byte)) : Core :=
  l.foldl (fun c kv => match c.place kv.1 with | some e => c.flatPut e kv.2 | none => c) c

/-- The bundle executed on the core in focus, its stores made; none where streamed mode does not allow it. -/
def streamRun (b : Bundle) (s : State) : Option State :=
  if b.brace || b.tmark || !isNop b.m || !isNop b.c0 || !isNop b.c1 || !isNop b.k then none
  else
    let p := s.core.pool
    ((((streamS (s.mapCore Core.flatView) b.s).bind Result.state?).bind fun s => (streamV s b.va).bind Result.state?).bind fun s =>
      (streamV s b.vb).bind Result.state?).map fun s => s.mapCore fun c =>
        ({ c with pool := p, stores := [] } : Core).flatStores c.stores

/-- One core's execution of a streamed bundle, after what lands in this cc: an allowed one, or the streamed-error flag and its
report. A fenced core does nothing (R387). -/
def State.streamOn (s : State) (seq ref : Nat) (b : BitVec 384) : State :=
  if (s.coreAt ref).kernel ≠ 0 ∨ s.fencedUnit (.core (bayOf ref) (coreIdOf ref)) then s
  else
    let at_ := s.core.ref
    let t := (s.focus ref).mapCore fun c => ((c.landDue inS).landDue inV).flatten
    let done : Option State := match decodeBundle ⟨32, 16, [], []⟩ b with
      | .ok x => streamRun x t
      | .error _ => none
    (match done with
      | some u => u
      | none =>
        let u := t.mapCore fun c => { c with streamErr := some seq }
        { u with sys := { u.sys with console := u.sys.console ++ [ConsoleMsg.streamedError (coreIdOf ref) seq] } }).focus at_

/-- STREAMED_BUNDLE: the root sends it down the tree, at most one in a cc; the cores execute it 6 cc later. -/
def execStreamedBundle (bay seq : Nat) (b : BitVec 384) (s : State) : Result :=
  let due := s.streams.foldl (fun m e => if e.2.1 = bay then max m (e.1 + 1) else m) (s.now + 6)
  .next { s with streams := s.streams ++ [(due, bay, seq, b)] }

/-- A streamed bundle that has come down the tree: every core of the die that runs no kernel executes it, all in one cc. -/
def State.streamDown (s : State) : Option State :=
  (s.streams.find? fun e => decide (e.1 ≤ s.now)).map fun e =>
    (List.range 192).foldl (fun s i => s.streamOn e.2.2.1 (e.2.1 * 192 + i) e.2.2.2) { s with streams := s.streams.filter (· != e) }

end Sys2Proof.Machine
end

