-- ==== Sys2Proof/Machine/Sweep.lean ====
section
/-! DEFINITION. The repointing sweeper (R311, R312): a pass over a context's weathered memory in a bay, and its line steps. -/

namespace Sys2Proof.Machine

/-- The module-memory lines, by address div 128, of a virtual range that are homed in a bay of this module. -/
def Context.linesIn (x : Context) (node bay va len : Nat) : List Nat :=
  (List.range (len / 128)).filterMap fun i =>
    let a := va + 128 * i
    match (x.leaf? a).bind fun w => x.homeOf node w a with
    | some (nd, b, off) => if nd = node ∧ b = bay then some (memAddr bay off / 128) else none
    | none => none

/-- The weathered memory of a context in a bay's slice: pages with WTH, and the ranges of windows in memory with WTH (R311).
[DEDUCED: log 74] -/
def State.weathered (s : State) (x : Context) (bay : Nat) : List Nat :=
  let pages := (x.leaves.filter fun l => leafWth l.word).flatMap fun l =>
    x.linesIn s.node.toNat bay (l.page * 2 ^ 16) (pageBytes (leafSz l.word))
  let wins := (s.windows.filter fun w => w.key.ctx == x.id && w.live && w.wth && !w.pool).flatMap fun w =>
    x.linesIn s.node.toNat bay w.base w.len
  (pages ++ wins).dedup

/-- The sweep of a bay changed. -/
def State.onSweep (s : State) (ctx bay : Nat) (w : Sweep) : State :=
  s.onCtx ctx fun x => { x with sweeps := x.sweeps.filter (fun p => p.bay != bay) ++ [w] }

/-- The sweep of a bay, if it has ever run. -/
def Context.sweep? (x : Context) (bay : Nat) : Option Sweep := x.sweeps.find? fun p => p.bay == bay

/-- A pass begun: its lines, and its first line slot. -/
def State.beginPass (s : State) (x : Context) (bay : Nat) : State :=
  let lines := s.weathered x bay
  let s := s.onSweep x.id bay ⟨bay, lines, !lines.isEmpty, false⟩
  if lines.isEmpty then s
  else
    let (d, s) := s.free Config.work
    s.after (d + 1) none (.sweepLineStep x.id bay)

/-- SWEEP_PASS_START: a pass starts, or, while one runs, at most one further pass is due (R312). [DEDUCED: log 76] -/
def execSweepPassStart (ctx bay : Nat) (s : State) : Result :=
  .next (match s.ctx? ctx with
    | none => s
    | some x => match x.sweep? bay with
      | some p => if p.running then s.onSweep ctx bay { p with due := true } else s.beginPass x bay
      | none => s.beginPass x bay)

/-- A pass that has ended: the one due starts late, and LAG is counted once for it (R312). -/
def State.endPass (s : State) (ctx bay : Nat) (due : Bool) : State :=
  let s := s.onSweep ctx bay ⟨bay, [], false, false⟩
  if !due then s
  else
    let s := s.onWeather ctx bay fun w => { w with lag := min (w.lag + 1) 65535 }
    match s.ctx? ctx with
    | none => s
    | some x => s.beginPass x bay

/-- One line treated in one atomic step (R311): a line with a poisoned burst is left, a leased one is written back first.
[DESIGN CHOICE: log 75] -/
def State.sweepOne (s : State) (x : Context) (bay line : Nat) : State :=
  let a := line * 128
  if s.poisoned a || s.poisoned (a + 64) then s
  else
    let s := (s.beforeLines [(0, a, 128)]).writeBack [line / 2]
    let step := x.step - unseen (Core.blank 1536) s.now s.fresh x.recent
    let s : State := { s with fresh := s.fresh + x.recent.length }
    let (out, ahead, bad) := x.sweepLine step (s.memBytes a 128)
    let s := s.countLines x.id bay ahead bad
    match out with
    | none => s
    | some (l, zeroed, swept) =>
      (s.memWrite (cellsAt a l)).onWeather x.id bay fun w =>
        { w with swept := w.swept + (if swept then 1 else 0), zeroed := w.zeroed + (if zeroed then 1 else 0) }

/-- SWEEP_LINE_STEP: the sweeper takes a line slot for the next line of its pass (R312). -/
def execSweepLineStep (ctx bay : Nat) (s : State) : Result :=
  .next (match s.ctx? ctx with
    | none => s
    | some x => match x.sweep? bay with
      | none => s
      | some p =>
        if !p.running then s
        else match p.lines with
          | [] => s.endPass ctx bay p.due
          | line :: rest =>
            let s := if (s.weathered x bay).contains line then s.sweepOne x bay line else s
            let s := s.onSweep ctx bay { p with lines := rest }
            if rest.isEmpty then s.endPass ctx bay p.due
            else
              let (d, s) := s.free Config.work
              s.after (d + 1) none (.sweepLineStep ctx bay))

end Sys2Proof.Machine
end

