-- ==== Sys2Proof/Machine/System.lean ====
section
/-! DEFINITION. The module's own events (R381 to R389, R392, R393): boot, life-cycle, contexts and key slots, attestation,
firmware, telemetry, errors and fencing. -/

namespace Sys2Proof.Machine

/-- A message of the Azdor controller. -/
def State.tell (s : State) (m : ConsoleMsg) : State := { s with sys := { s.sys with console := s.sys.console ++ [m] } }

/-- The reset value of a policy word: MENC is 1 (R383). -/
def policyReset : W64 := 0x100

/-- The policy word that the context table shows for a context; in DEPLOYED, ACCEPTU reads as 0 (R383). -/
def State.policyWord (s : State) (id : Nat) : W64 :=
  let w := Sparse.get policyReset s.sys.policy id
  if s.sys.life = .deployed then w &&& ~~~(1 : W64) else w

/-- The controller's state as a reset leaves it: the life-cycle state, the keys and its own log stay, and a staged image takes effect. -/
def System.afterReset (y : System) (fails : Option BootFailure) (moduleKey : BitVec 512) : System :=
  { boot := .started, life := y.life, firmware := y.staged.getD y.firmware, nextKey := y.nextKey, keys := y.keys,
    provisioned := y.provisioned, moduleKey := moduleKey, fails := fails, lifeLog := y.lifeLog, console := y.console }

/-! ## Boot (R381, R217, R392) -/

/-- The end of some steps of the boot: where one of them fails, the sequence stops, and the controller reports the step and the unit;
else the boot goes on (R381). [DESIGN CHOICE: log 81] -/
def State.bootStep (s : State) (steps : List Nat) (on : State → State) : State :=
  match s.sys.fails with
  | some f =>
    if steps.contains f.step then ({ s with sys := { s.sys with boot := .stopped } } : State).tell (.bootFailure f)
    else on s
  | none => on s

/-- POWER_ON_RESET: everything is as after reset; the controller's log and the life-cycle state stay, a staged image takes effect, and
a failed check of the firmware, in step 1 or 2, stops the boot. [DESIGN CHOICE: log 81; DEDUCED: log 104] -/
def execPowerOnReset (fails : Option BootFailure) (s : State) : Result :=
  .next (({ State.reset with node := s.node, sys := s.sys.afterReset fails (Config.moduleKey s.fresh), inputs := s.inputs,
                             outbox := s.outbox, fresh := s.fresh + 1 } : State).bootStep [1, 2] id)

/-- The cores whose streamed-error flag is set. -/
def State.streamFailures (s : State) : List UnitId :=
  ((s.core :: s.peers).filter fun c => c.streamErr.isSome).map fun c => .core (bayOf c.ref) (coreIdOf c.ref)

/-- SELF_TEST_END: the units that failed are fenced (R381 steps 3 and 4). [DEDUCED: log 82, 105] -/
def execSelfTestEnd (failed : List UnitId) (s : State) : Result :=
  .next (
    if s.sys.boot ≠ BootStep.started then s
    else s.bootStep [3, 4] fun s =>
      let bad : List UnitId := (failed ++ s.streamFailures).dedup
      { s with sys := { s.sys with boot := .tested, fenced := bad, console := s.sys.console ++ bad.map ConsoleMsg.fenceEvent } })

/-- Every memory of the module wiped: HBM, pools, dictionary stores, loop buffers, trace buffers and tables, with all that stood in
them (R381 step 5, R382). The numbers of the journal run on, and so do the bounds of links that are retraining (R387).
[DEDUCED: log 71] -/
def State.wipe (s : State) : State :=
  { State.reset with
    mcyc := s.mcyc, node := s.node, cp := { nextSeq := s.cp.nextSeq, readIdx := s.cp.nextSeq - 1 },
    sys := { s.sys with keySlots := 0, policy := [], frameKeys := [], seals := [], errors := [], recent := [] },
    agenda := s.sys.retraining.map fun r => ⟨r.2 + 7000000, none, .linkRetrainTimeout r.1⟩,
    inputs := s.inputs, outbox := s.outbox, fresh := s.fresh }

/-- MEMORY_WIPE_END (step 5). -/
def execMemoryWipeEnd (s : State) : Result :=
  .next (if s.sys.boot ≠ BootStep.tested then s else s.bootStep [5] fun s =>
    let t := s.wipe
    { t with sys := { t.sys with boot := .wiped } })

/-- LINK_TRAINING_END: the links are trained, the operating system runs and the queues open (R381 steps 6 and 7); a link that was
retraining is in service again (R387). In DECOMMISSIONED boot has ended after step 5 (R382). [DESIGN CHOICE: log 80] -/
def execLinkTrainingEnd (s : State) : Result :=
  .next (
    if s.sys.boot = BootStep.open_ then { s with sys := { s.sys with retraining := [] } }
    else if s.sys.boot ≠ BootStep.wiped ∨ s.sys.life = LifeState.decommissioned then s
    else s.bootStep [6, 7] fun s =>
      { s with sys := { s.sys with boot := .open_, domain := Config.domain s.fresh }, fresh := s.fresh + 1 })

/-! ## Life-cycle (R382) -/

/-- The changes of state there are. -/
def lifeStepOk : LifeState → LifeState → Bool
  | .manufacture, .provisioned => true
  | .provisioned, .deployed => true
  | .deployed, .provisioned => true
  | .deployed, .decommissioned => true
  | _, _ => false

/-- The key store after a change of state: provisioning installs the identity key and the owner's keys, decommissioning destroys all of
them (R382). -/
def System.keysIn (y : System) (target : LifeState) : System :=
  match y.life, target with
  | .manufacture, .provisioned =>
      { y with keys := ⟨false, some y.provisioned, some y.provisioned⟩, provisioned := y.provisioned + 1 }
  | _, .decommissioned => { y with keys := ⟨false, none, none⟩ }
  | _, _ => y

/-- Whether the controller serves a session: it is authenticated, which takes a key in the key store (R382, R392). [DEDUCED: log 83] -/
def System.serves (y : System) (auth : Bool) : Bool := auth && (y.keys.test || y.keys.owner.isSome)

/-- LIFECYCLE_REQUEST: a signed request of an authenticated session for a change there is wipes all memory and changes the key store;
the controller and the journal record it (R382, R392). -/
def execLifecycleRequest (r : LifeReq) (s : State) : Result :=
  .next (
    if !s.sys.serves r.auth || !r.signed || !lifeStepOk s.sys.life r.target then s
    else
      let t := s.wipe
      let t : State := { t with sys := { t.sys.keysIn r.target with life := r.target, lifeLog := t.sys.lifeLog ++ [r.target] } }
      t.journal ⟨0, .lifeCycle, 0, 0, 0, 0, .life r.target⟩)

/-! ## Attestation, firmware, telemetry (R386, R392) -/

/-- A number of a life-cycle state. -/
def LifeState.code : LifeState → Nat
  | .manufacture => 0 | .provisioned => 1 | .deployed => 2 | .decommissioned => 3

/-- Numbers of a unit. -/
def UnitId.code : UnitId → List Nat
  | .core b i => [0, b, i]
  | .engine b i u => [1, b, i, match u with | .c0 => 0 | .c1 => 1]
  | .port b n => [2, b, n]
  | .channel b n => [3, b, n]
  | .link n => [4, n]
  | .bay n => [5, n]

/-- The bytes of a report that are signed. [PRESUMED: log 13] -/
def reportBytes (life : LifeState) (fw : Firmware) (fenced : List UnitId) (seals : List SealedRegion) (nonce : BitVec 512) : List Byte :=
  bytesOf 1 (LifeState.code life) ++ bytesOf 64 fw.azdor.toNat ++ bytesOf 64 fw.cp.toNat ++ bytesOf 64 fw.loader.toNat ++
    bytesOf 2 fenced.length ++ (fenced.flatMap fun u => (UnitId.code u).map fun n => BitVec.ofNat 8 n) ++
    (seals.flatMap fun r => bytesOf 2 r.ctx ++ bytesOf 8 r.va ++ bytesOf 8 r.len ++ bytesOf 64 r.digest.toNat) ++ bytesOf 64 nonce.toNat

/-- The report of a module on a nonce, signed with its identity key (R386). -/
def System.report (y : System) (key : Nat) (nonce : BitVec 512) : Report :=
  { life := y.life, firmware := y.firmware, fenced := y.fenced, seals := y.seals, nonce := nonce,
    signature := Config.sign key (Config.sha512 (reportBytes y.life y.firmware y.fenced y.seals nonce)) }

/-- ATTESTATION_REQUEST: an authenticated session gets a report signed with the identity key, which stands in the key store from
provisioning to decommissioning (R382, R386, R392). [DEDUCED: log 83] -/
def execAttestationRequest (r : AttestReq) (s : State) : Result :=
  .next (
    if !s.sys.serves r.auth then s
    else match s.sys.keys.identity with
      | none => s
      | some key => s.tell (.report (s.sys.report key r.nonce)))

/-- FIRMWARE_UPDATE: a verified image of an authenticated session is staged for the next reset. -/
def execFirmwareUpdate (auth verified : Bool) (image : Firmware) (s : State) : Result :=
  .next (if s.sys.serves auth && verified then { s with sys := { s.sys with staged := some image } } else s)

/-- What telemetry shows: the readings of the sensors, of the eight compute dies and the I/O die for the temperatures, and the two clocks
of R1 (R392). [DESIGN CHOICE: log 151] -/
def State.telemetry (s : State) : Telemetry :=
  { power := Config.sensor 0 s.fresh, flow := Config.sensor 1 s.fresh,
    temperatures := (List.range 9).map fun i => Config.sensor (2 + i) s.fresh, clocks := [700, 1400],
    fenced := s.sys.fenced, errors := s.sys.errors, warned := s.sys.warned }

/-- TELEMETRY_REQUEST: an authenticated session gets telemetry, the fence reports and the error counters. -/
def execTelemetryRequest (auth : Bool) (s : State) : Result :=
  .next (if s.sys.serves auth then { s.tell (.telemetry s.telemetry) with fresh := s.fresh + 1 } else s)

/-! ## Fencing (R387) -/

/-- Whether a kernel bound now uses a unit: it stands on the core, the engine's core, or the bay or channel's bay, or its bond plan
claims the port or link. -/
def State.uses (s : State) (k : Kernel) (u : UnitId) : Bool :=
  match u with
  | .core b i => k.cores.contains (b * 192 + i)
  | .engine b i _ => k.cores.contains (b * 192 + i)
  | .bay n => k.cores.any fun r => bayOf r == n
  | .channel b _ => k.cores.any fun r => bayOf r == b
  | .port b n => s.bonds.any fun q => q.1 == b * 256 + 192 + n && q.2.2.2 == k.seq
  | .link n => s.bonds.any fun q => q.1 == 196 + n && q.2.2.2 == k.seq

/-- The core a unit's fence is reported at: the unit's own, else the kernel's first. -/
def Kernel.faultCore (k : Kernel) (u : UnitId) : Nat :=
  match u with
  | .core b i => b * 192 + i
  | .engine b i _ => b * 192 + i
  | .bay n => (k.cores.find? fun r => bayOf r == n).getD (k.cores.headD 0)
  | _ => k.cores.headD 0

/-- UNIT-FENCED in a kernel (R349). -/
def State.unitFault (s : State) (k : Kernel) (u : UnitId) : State :=
  let c := s.coreAt (k.faultCore u)
  s.faultKernel k.seq ⟨0x0105, c.idx, if c.mode then c.trapPc else c.brace.pos.word, c.pos.word, 0, 0, 0, c.ksave⟩

/-- A unit fenced: recorded and reported, and every bound kernel that uses it faults. -/
def State.fence (s : State) (u : UnitId) : State :=
  if s.fencedUnit u then s
  else
    let hit := s.kernels.filter fun k => k.placed && s.uses k u
    let s : State := { s with sys := { s.sys with fenced := s.sys.fenced ++ [u] } }
    let s := (s.tell (.fenceEvent u)).journal ⟨0, .unitFenced, 0, 0, 0, 0, .unit u⟩
    hit.foldl (fun s k => s.unitFault k u) s

/-- UNIT_FENCE. -/
def execUnitFence (u : UnitId) (s : State) : Result := .next (s.fence u)

/-- An entry of a kernel's dictionary in a bay's store is uncorrectable, for every kernel that shares it (R368, R388). -/
def State.spoil (s : State) (bay seq entry : Nat) : State :=
  match s.kernel? seq with
  | none => s
  | some k => { s with spoiled :=
      (bay, k.imgKey, entry, none) :: s.spoiled.filter fun x => !(x.1 == bay && x.2.1 == k.imgKey && x.2.2.1 == entry) }

/-- A soft error counted for a unit; 4,096 in 2^30 cc fence it (R387). -/
def State.countSoft (s : State) (u : UnitId) : State :=
  let recent := (s.sys.recent.filter fun e => decide (s.now < e.2 + 2 ^ 30)) ++ [(u, s.now)]
  let old := ((s.sys.errors.find? fun e => e.1 == u).map (·.2)).getD 0
  let s : State := { s with sys := { s.sys with recent := recent, errors := s.sys.errors.filter (fun e => e.1 != u) ++ [(u, old + 1)] } }
  if 4096 ≤ (recent.filter fun e => e.1 == u).length then s.fence u else s

/-- SRAM_SOFT_ERROR: corrected in place and counted; an uncorrectable entry of a bay's dictionary store is to be reloaded (R388).
[DESIGN CHOICE: log 86] -/
def execSramSoftError (u : SoftError) (s : State) : Result :=
  .next (match u with
    | .corrected v => s.countSoft v
    | .entry b seq e => s.spoil b seq e)

/-- SRAM_UNCORRECTABLE_ERROR: the unit is fenced (R387). -/
def execSramUncorrectableError (u : UnitId) (s : State) : Result := .next (s.fence u)

/-- HBM_UNCORRECTABLE_ERROR: the burst is poisoned and a memory-event record appended; the channel goes on (R388). -/
def execHbmUncorrectableError (burst : Nat) (s : State) : Result :=
  .next (if s.poison.contains burst then s.journal ⟨0, .memoryEvent, 0, 0, 0, 0, .memory (burst % 64) burst⟩
    else ({ s with poison := burst :: s.poison } : State).journal ⟨0, .memoryEvent, 0, 0, 0, 0, .memory (burst % 64) burst⟩)

/-- LINK_RETRAIN_START: the link has lost its training; 10 ms, 7,000,000 cc, are its bound (R387). -/
def execLinkRetrainStart (link : Nat) (s : State) : Result :=
  .next (
    if s.fencedUnit (.link link) ∨ s.sys.retraining.any (fun r => r.1 == link) then s
    else ({ s with sys := { s.sys with retraining := s.sys.retraining ++ [(link, s.now)] } } : State).after 7000000 none
      (.linkRetrainTimeout link))

/-- LINK_RETRAIN_TIMEOUT: a link still retraining after 10 ms is fenced (R387). -/
def execLinkRetrainTimeout (link : Nat) (s : State) : Result :=
  .next (
    if s.sys.retraining.any fun r => r.1 == link && decide (r.2 + 7000000 ≤ s.now) then
      ({ s with sys := { s.sys with retraining := s.sys.retraining.filter fun r => r.1 != link } } : State).fence (.link link)
    else s)

/-! ## Cooling (R393) -/

/-- THERMAL_WARNING. -/
def execThermalWarning (s : State) : Result := .next (({ s with sys := { s.sys with warned := true } } : State).tell .warning)

/-- THERMAL_TRIP: every bay is fenced at once, whichever die has reached its trip temperature. -/
def execThermalTrip (_die : Nat) (s : State) : Result := .next ((List.range 8).foldl (fun s n => s.fence (.bay n)) s)

/-! ## Contexts and key slots (R371, R383, R384) -/

/-- A context as it is created. -/
def Context.fresh (id : Nat) (lenc menc acceptU : Bool) (key : Option KeySlot) : Context :=
  { id := id, lenc := lenc, menc := menc, acceptU := acceptU, key := key, step := 0, recent := [], rates := [], classes := [],
    stripes := [], leaves := [], sealed := [], faults := [], nextFault := 0, weathering := [], unmatched := [], sweeps := [],
    backlog := [] }

/-- The keys generated on the I/O die for the k-th assignment of a slot (R384). -/
def KeySlot.fresh (k : Nat) : KeySlot := ⟨k, Config.freshKey k, Config.freshLinkKey k⟩

/-- Whether the driver's entry can be created: the queues are open, bits [63:10] are zero, the context does not exist, and a key slot is
free where one is needed. [DEDUCED: log 73] -/
def State.canCreate (s : State) (id : Nat) (policy : W64) : Bool :=
  s.sys.boot == .open_ && s.sys.life != .decommissioned && decide (id < 2 ^ 16) && field 63 10 policy.toNat == 0 &&
    (s.ctx? id).isNone && (!(bitOf 8 policy.toNat || bitOf 9 policy.toNat) || decide (s.sys.keySlots < 512))

/-- CONTEXT_CREATE: the policy word stands in the context table. In DEPLOYED, ACCEPTU reads as 0. -/
def execContextCreate (id : Nat) (policy : W64) (s : State) : Result :=
  .next (
    if !s.canCreate id policy then s
    else
      let n := policy.toNat
      let keyed := bitOf 8 n || bitOf 9 n
      let x := Context.fresh id (bitOf 9 n) (bitOf 8 n) (bitOf 0 n && s.sys.life != .deployed)
        (if keyed then some (KeySlot.fresh s.sys.nextKey) else none)
      let y : System := { s.sys with policy := Sparse.set policyReset s.sys.policy id policy }
      { s with contexts := s.contexts ++ [x], sys := if keyed then { y with keySlots := y.keySlots + 1, nextKey := y.nextKey + 1 } else y })

/-- HBM pages of a context with MENC whose key is wiped stay encrypted under it (R383): nothing reads what their frames held, where no
other context has mapped them since. [DESIGN CHOICE: log 72] -/
def State.loseKey (s : State) (x : Context) : State :=
  if x.hbmKey = 0 then s
  else
    let lost := s.sys.frameKeys.filter fun k => k.2 == x.hbmKey
    let s := s.loseFrames (lost.map (·.1))
    { s with sys := { s.sys with frameKeys := s.sys.frameKeys.filter fun k => k.2 != x.hbmKey } }

/-- CONTEXT_DESTROY, after the last kernel of the context has retired: its key slot is wiped, and its tables are gone. [DEDUCED: log 79] -/
def execContextDestroy (id : Nat) (s : State) : Result :=
  .next (match s.ctx? id with
    | none => s
    | some x =>
      if s.kernels.any fun k => k.ctx == id && k.phase != .retired then s
      else
        let s := s.loseKey x
        let cp := s.cp
        let mineNot (j : PageJob) : Bool := j.ctx != id
        { s with
          contexts := s.contexts.filter (fun y => y.id != id), taskQueues := s.taskQueues.filter (fun q => q.ctx != id),
          regions := s.regions.filter (fun g => g.key.ctx != id), dieTlb := s.dieTlb.filter (fun e => e.2.1 != id),
          cp := { cp with maps := cp.maps.filter mineNot, invals := cp.invals.filter mineNot,
                          migrations := cp.migrations.filter mineNot, seals := cp.seals.filter mineNot },
          sys := { s.sys with policy := Sparse.del s.sys.policy id, keySlots := s.sys.keySlots - (if x.key.isSome then 1 else 0) } })

end Sys2Proof.Machine
end

