-- ==== Sys2Proof/Machine/Dispatch.lean ====
section
/-! DEFINITION. One arm for each row of spec/opcode_table.json: a direct call of its meaning. -/

namespace Sys2Proof.Machine

def exec (i : Instr) (s : State) : Host.Outcome State Fault Refusal :=
  match i with
  | .nop slot => Sys2Proof.Machine.execNop slot s
  | .brace => Sys2Proof.Machine.execBrace s
  | .tmark => Sys2Proof.Machine.execTmark s
  | .add f => Sys2Proof.Machine.execAdd f s
  | .sub f => Sys2Proof.Machine.execSub f s
  | .mul f => Sys2Proof.Machine.execMul f s
  | .mulh f => Sys2Proof.Machine.execMulh f s
  | .div f => Sys2Proof.Machine.execDiv f s
  | .rem f => Sys2Proof.Machine.execRem f s
  | .and f => Sys2Proof.Machine.execAnd f s
  | .or f => Sys2Proof.Machine.execOr f s
  | .xor f => Sys2Proof.Machine.execXor f s
  | .andn f => Sys2Proof.Machine.execAndn f s
  | .shl f => Sys2Proof.Machine.execShl f s
  | .shr f => Sys2Proof.Machine.execShr f s
  | .sra f => Sys2Proof.Machine.execSra f s
  | .rot f => Sys2Proof.Machine.execRot f s
  | .min f => Sys2Proof.Machine.execMin f s
  | .max f => Sys2Proof.Machine.execMax f s
  | .clz f => Sys2Proof.Machine.execClz f s
  | .popc f => Sys2Proof.Machine.execPopc f s
  | .sel f => Sys2Proof.Machine.execSel f s
  | .cmp f => Sys2Proof.Machine.execCmp f s
  | .awr f => Sys2Proof.Machine.execAwr f s
  | .ard f => Sys2Proof.Machine.execArd f s
  | .ainc f => Sys2Proof.Machine.execAinc f s
  | .addI f => Sys2Proof.Machine.execAddI f s
  | .subI f => Sys2Proof.Machine.execSubI f s
  | .mulI f => Sys2Proof.Machine.execMulI f s
  | .mulhI f => Sys2Proof.Machine.execMulhI f s
  | .divI f => Sys2Proof.Machine.execDivI f s
  | .remI f => Sys2Proof.Machine.execRemI f s
  | .andI f => Sys2Proof.Machine.execAndI f s
  | .orI f => Sys2Proof.Machine.execOrI f s
  | .xorI f => Sys2Proof.Machine.execXorI f s
  | .andnI f => Sys2Proof.Machine.execAndnI f s
  | .shlI f => Sys2Proof.Machine.execShlI f s
  | .shrI f => Sys2Proof.Machine.execShrI f s
  | .sraI f => Sys2Proof.Machine.execSraI f s
  | .rotI f => Sys2Proof.Machine.execRotI f s
  | .minI f => Sys2Proof.Machine.execMinI f s
  | .maxI f => Sys2Proof.Machine.execMaxI f s
  | .aincI f => Sys2Proof.Machine.execAincI f s
  | .movi f => Sys2Proof.Machine.execMovi f s
  | .movhi f => Sys2Proof.Machine.execMovhi f s
  | .fadd f => Sys2Proof.Machine.execFadd f s
  | .fmul f => Sys2Proof.Machine.execFmul f s
  | .ffma f => Sys2Proof.Machine.execFfma f s
  | .fmin f => Sys2Proof.Machine.execFmin f s
  | .fmax f => Sys2Proof.Machine.execFmax f s
  | .fcmp f => Sys2Proof.Machine.execFcmp f s
  | .cvtif f => Sys2Proof.Machine.execCvtif f s
  | .cvtfi f => Sys2Proof.Machine.execCvtfi f s
  | .lds f => Sys2Proof.Machine.execLds f s
  | .sts f => Sys2Proof.Machine.execSts f s
  | .hld f => Sys2Proof.Machine.execHld f s
  | .hst f => Sys2Proof.Machine.execHst f s
  | .hmov f => Sys2Proof.Machine.execHmov f s
  | .hpin f => Sys2Proof.Machine.execHpin f s
  | .hunpin f => Sys2Proof.Machine.execHunpin f s
  | .hnull f => Sys2Proof.Machine.execHnull f s
  | .br f => Sys2Proof.Machine.execBr f s
  | .jmp f => Sys2Proof.Machine.execJmp f s
  | .call f => Sys2Proof.Machine.execCall f s
  | .ret f => Sys2Proof.Machine.execRet f s
  | .loop f => Sys2Proof.Machine.execLoop f s
  | .lend f => Sys2Proof.Machine.execLend f s
  | .halt f => Sys2Proof.Machine.execHalt f s
  | .trap f => Sys2Proof.Machine.execTrap f s
  | .tret f => Sys2Proof.Machine.execTret f s
  | .yield f => Sys2Proof.Machine.execYield f s
  | .twait f => Sys2Proof.Machine.execTwait f s
  | .ttest f => Sys2Proof.Machine.execTtest f s
  | .sleept f => Sys2Proof.Machine.execSleept f s
  | .tprom f => Sys2Proof.Machine.execTprom f s
  | .waitl f => Sys2Proof.Machine.execWaitl f s
  | .waitr f => Sys2Proof.Machine.execWaitr f s
  | .getsr f => Sys2Proof.Machine.execGetsr f s
  | .setsr f => Sys2Proof.Machine.execSetsr f s
  | .ftset f => Sys2Proof.Machine.execFtset f s
  | .ftld f => Sys2Proof.Machine.execFtld f s
  | .stepadv f => Sys2Proof.Machine.execStepadv f s
  | .kest f => Sys2Proof.Machine.execKest f s
  | .vadd f => Sys2Proof.Machine.execVadd f s
  | .vsub f => Sys2Proof.Machine.execVsub f s
  | .vmul f => Sys2Proof.Machine.execVmul f s
  | .vfma f => Sys2Proof.Machine.execVfma f s
  | .vfms f => Sys2Proof.Machine.execVfms f s
  | .vmin f => Sys2Proof.Machine.execVmin f s
  | .vmax f => Sys2Proof.Machine.execVmax f s
  | .vabs f => Sys2Proof.Machine.execVabs f s
  | .vneg f => Sys2Proof.Machine.execVneg f s
  | .vmovi f => Sys2Proof.Machine.execVmovi f s
  | .vand f => Sys2Proof.Machine.execVand f s
  | .vor f => Sys2Proof.Machine.execVor f s
  | .vxor f => Sys2Proof.Machine.execVxor f s
  | .vnot f => Sys2Proof.Machine.execVnot f s
  | .vshl f => Sys2Proof.Machine.execVshl f s
  | .vshr f => Sys2Proof.Machine.execVshr f s
  | .vsra f => Sys2Proof.Machine.execVsra f s
  | .vpopc f => Sys2Proof.Machine.execVpopc f s
  | .vclz f => Sys2Proof.Machine.execVclz f s
  | .vsel f => Sys2Proof.Machine.execVsel f s
  | .vqand f => Sys2Proof.Machine.execVqand f s
  | .vqor f => Sys2Proof.Machine.execVqor f s
  | .vqnot f => Sys2Proof.Machine.execVqnot f s
  | .vcmpEq f => Sys2Proof.Machine.execVcmpEq f s
  | .vcmpNe f => Sys2Proof.Machine.execVcmpNe f s
  | .vcmpLt f => Sys2Proof.Machine.execVcmpLt f s
  | .vcmpLe f => Sys2Proof.Machine.execVcmpLe f s
  | .vcmpGt f => Sys2Proof.Machine.execVcmpGt f s
  | .vcmpGe f => Sys2Proof.Machine.execVcmpGe f s
  | .vexp2 f => Sys2Proof.Machine.execVexp2 f s
  | .vlog2 f => Sys2Proof.Machine.execVlog2 f s
  | .vrcp f => Sys2Proof.Machine.execVrcp f s
  | .vrsq f => Sys2Proof.Machine.execVrsq f s
  | .vsqrt f => Sys2Proof.Machine.execVsqrt f s
  | .vcvt f => Sys2Proof.Machine.execVcvt f s
  | .vpack f => Sys2Proof.Machine.execVpack f s
  | .vunpk f => Sys2Proof.Machine.execVunpk f s
  | .vld f => Sys2Proof.Machine.execVld f s
  | .vst f => Sys2Proof.Machine.execVst f s
  | .vldx f => Sys2Proof.Machine.execVldx f s
  | .vstx f => Sys2Proof.Machine.execVstx f s
  | .vstmb f => Sys2Proof.Machine.execVstmb f s
  | .vldmb f => Sys2Proof.Machine.execVldmb f s
  | .vbcast f => Sys2Proof.Machine.execVbcast f s
  | .vextr f => Sys2Proof.Machine.execVextr f s
  | .vperm f => Sys2Proof.Machine.execVperm f s
  | .vxcrs f => Sys2Proof.Machine.execVxcrs f s
  | .vradd f => Sys2Proof.Machine.execVradd f s
  | .vrmax f => Sys2Proof.Machine.execVrmax f s
  | .vrmin f => Sys2Proof.Machine.execVrmin f s
  | .vwstmp f => Sys2Proof.Machine.execVwstmp f s
  | .vwfac f => Sys2Proof.Machine.execVwfac f s
  | .vwmrg f => Sys2Proof.Machine.execVwmrg f s
  | .vzrd f => Sys2Proof.Machine.execVzrd f s
  | .vzwr f => Sys2Proof.Machine.execVzwr f s
  | .mma f => Sys2Proof.Machine.execMma f s
  | .mmai f => Sys2Proof.Machine.execMmai f s
  | .mmas f => Sys2Proof.Machine.execMmas f s
  | .mgath f => Sys2Proof.Machine.execMgath f s
  | .mzero f => Sys2Proof.Machine.execMzero f s
  | .mzld f => Sys2Proof.Machine.execMzld f s
  | .mzst f => Sys2Proof.Machine.execMzst f s
  | .mtrn f => Sys2Proof.Machine.execMtrn f s
  | .cpget f => Sys2Proof.Machine.execCpget f s
  | .cpput f => Sys2Proof.Machine.execCpput f s
  | .cpfill f => Sys2Proof.Machine.execCpfill f s
  | .cpstr f => Sys2Proof.Machine.execCpstr f s
  | .cptile f => Sys2Proof.Machine.execCptile f s
  | .cppair f => Sys2Proof.Machine.execCppair f s
  | .cpbay f => Sys2Proof.Machine.execCpbay f s
  | .nmcmd f => Sys2Proof.Machine.execNmcmd f s
  | .cpwget f => Sys2Proof.Machine.execCpwget f s
  | .cpwput f => Sys2Proof.Machine.execCpwput f s
  | .cpwacc f => Sys2Proof.Machine.execCpwacc f s
  | .hget f => Sys2Proof.Machine.execHget f s
  | .hput f => Sys2Proof.Machine.execHput f s
  | .hacc f => Sys2Proof.Machine.execHacc f s
  | .fence f => Sys2Proof.Machine.execFence f s
  | .scfence f => Sys2Proof.Machine.execScfence f s
  | .wcreate f => Sys2Proof.Machine.execWcreate f s
  | .wfree f => Sys2Proof.Machine.execWfree f s
  | .wget f => Sys2Proof.Machine.execWget f s
  | .wput f => Sys2Proof.Machine.execWput f s
  | .wacc f => Sys2Proof.Machine.execWacc f s
  | .wfaa f => Sys2Proof.Machine.execWfaa f s
  | .wcas f => Sys2Proof.Machine.execWcas f s
  | .wswap f => Sys2Proof.Machine.execWswap f s
  | .wfence f => Sys2Proof.Machine.execWfence f s
  | .wpost f => Sys2Proof.Machine.execWpost f s
  | .wstart f => Sys2Proof.Machine.execWstart f s
  | .wcmpl f => Sys2Proof.Machine.execWcmpl f s
  | .wwait f => Sys2Proof.Machine.execWwait f s
  | .wlock f => Sys2Proof.Machine.execWlock f s
  | .wunlk f => Sys2Proof.Machine.execWunlk f s
  | .cntinc f => Sys2Proof.Machine.execCntinc f s
  | .cntrd f => Sys2Proof.Machine.execCntrd f s
  | .ctrig f => Sys2Proof.Machine.execCtrig f s
  | .ctdis f => Sys2Proof.Machine.execCtdis f s
  | .barinit f => Sys2Proof.Machine.execBarinit f s
  | .bararr f => Sys2Proof.Machine.execBararr f s
  | .barwait f => Sys2Proof.Machine.execBarwait f s
  | .bayadd f => Sys2Proof.Machine.execBayadd f s
  | .baycas f => Sys2Proof.Machine.execBaycas f s
  | .coll f => Sys2Proof.Machine.execColl f s
  | .collq f => Sys2Proof.Machine.execCollq f s
  | .send f => Sys2Proof.Machine.execSend f s
  | .recv f => Sys2Proof.Machine.execRecv f s
  | .recvadd f => Sys2Proof.Machine.execRecvadd f s
  | .recvmax f => Sys2Proof.Machine.execRecvmax f s
  | .illegalEncoding r => Sys2Proof.Machine.execIllegalEncoding r s
  | .segmentEnd => Sys2Proof.Machine.execSegmentEnd s
  | .expandBundle => Sys2Proof.Machine.execExpandBundle s
  | .sResultLand => Sys2Proof.Machine.execSResultLand s
  | .vResultLand => Sys2Proof.Machine.execVResultLand s
  | .mOpStart => Sys2Proof.Machine.execMOpStart s
  | .mResultLand => Sys2Proof.Machine.execMResultLand s
  | .cOpAccept u => Sys2Proof.Machine.execCOpAccept u s
  | .cOpLocalComplete op => Sys2Proof.Machine.execCOpLocalComplete op s
  | .stagedDrain op => Sys2Proof.Machine.execStagedDrain op s
  | .nearMemoryExecute op => Sys2Proof.Machine.execNearMemoryExecute op s
  | .fenceComplete op => Sys2Proof.Machine.execFenceComplete op s
  | .wdogExpiry => Sys2Proof.Machine.execWdogExpiry s
  | .yardLookupReply op => Sys2Proof.Machine.execYardLookupReply op s
  | .coreHalted => Sys2Proof.Machine.execCoreHalted s
  | .kernelRetirement k => Sys2Proof.Machine.execKernelRetirement k s
  | .remoteAccessArrival a => Sys2Proof.Machine.execRemoteAccessArrival a s
  | .targetAwayRetry a => Sys2Proof.Machine.execTargetAwayRetry a s
  | .remoteCompletion r => Sys2Proof.Machine.execRemoteCompletion r s
  | .wfenceArrival m => Sys2Proof.Machine.execWfenceArrival m s
  | .postArrival m => Sys2Proof.Machine.execPostArrival m s
  | .completionNoticeArrival m => Sys2Proof.Machine.execCompletionNoticeArrival m s
  | .lockRequestArrival m => Sys2Proof.Machine.execLockRequestArrival m s
  | .unlockArrival m => Sys2Proof.Machine.execUnlockArrival m s
  | .lockRetry m => Sys2Proof.Machine.execLockRetry m s
  | .lockBreak w => Sys2Proof.Machine.execLockBreak w s
  | .leaseExpiry line => Sys2Proof.Machine.execLeaseExpiry line s
  | .counterIncrement m => Sys2Proof.Machine.execCounterIncrement m s
  | .triggerFire core tid => Sys2Proof.Machine.execTriggerFire core tid s
  | .queueTakeGrant ctx qid fill => Sys2Proof.Machine.execQueueTakeGrant ctx qid fill s
  | .bayAtomicOp core op => Sys2Proof.Machine.execBayAtomicOp core op s
  | .barwaitTimeout op => Sys2Proof.Machine.execBarwaitTimeout op s
  | .circuitEntryArrival m => Sys2Proof.Machine.execCircuitEntryArrival m s
  | .walkerEmit => Sys2Proof.Machine.execWalkerEmit s
  | .doneNoticeArrival m => Sys2Proof.Machine.execDoneNoticeArrival m s
  | .collFinishedArrival m => Sys2Proof.Machine.execCollFinishedArrival m s
  | .collAbortArrival m => Sys2Proof.Machine.execCollAbortArrival m s
  | .collDeadline m => Sys2Proof.Machine.execCollDeadline m s
  | .launch c => Sys2Proof.Machine.execLaunch c s
  | .qcreate c => Sys2Proof.Machine.execQcreate c s
  | .qfree c => Sys2Proof.Machine.execQfree c s
  | .kill c => Sys2Proof.Machine.execKill c s
  | .mapPages c => Sys2Proof.Machine.execMapPages c s
  | .inval c => Sys2Proof.Machine.execInval c s
  | .invalComplete seq => Sys2Proof.Machine.execInvalComplete seq s
  | .faultreply c => Sys2Proof.Machine.execFaultreply c s
  | .migrate c => Sys2Proof.Machine.execMigrate c s
  | .migrateComplete seq => Sys2Proof.Machine.execMigrateComplete seq s
  | .classtab c => Sys2Proof.Machine.execClasstab c s
  | .yardreg c => Sys2Proof.Machine.execYardreg c s
  | .relay c => Sys2Proof.Machine.execRelay c s
  | .relayBatchTurn r => Sys2Proof.Machine.execRelayBatchTurn r s
  | .flipFenceAck r core u => Sys2Proof.Machine.execFlipFenceAck r core u s
  | .relayCopy r => Sys2Proof.Machine.execRelayCopy r s
  | .relayFinish r => Sys2Proof.Machine.execRelayFinish r s
  | .epoch c => Sys2Proof.Machine.execEpoch c s
  | .epochAdvance r => Sys2Proof.Machine.execEpochAdvance r s
  | .rates c => Sys2Proof.Machine.execRates c s
  | .seal c => Sys2Proof.Machine.execSeal c s
  | .sealComplete seq => Sys2Proof.Machine.execSealComplete seq s
  | .readRecord c => Sys2Proof.Machine.execReadRecord c s
  | .stripeset c => Sys2Proof.Machine.execStripeset c s
  | .submissionQueueTailWrite ring addr k tail => Sys2Proof.Machine.execSubmissionQueueTailWrite ring addr k tail s
  | .journalReadIndexAdvance upTo => Sys2Proof.Machine.execJournalReadIndexAdvance upTo s
  | .contextCreate ctx policy => Sys2Proof.Machine.execContextCreate ctx policy s
  | .contextDestroy ctx => Sys2Proof.Machine.execContextDestroy ctx s
  | .kernelBind k => Sys2Proof.Machine.execKernelBind k s
  | .kernelStart k => Sys2Proof.Machine.execKernelStart k s
  | .drainHorizonExpiry k => Sys2Proof.Machine.execDrainHorizonExpiry k s
  | .checkpointBoundExpiry k => Sys2Proof.Machine.execCheckpointBoundExpiry k s
  | .checkpointSave k ok => Sys2Proof.Machine.execCheckpointSave k ok s
  | .resume k => Sys2Proof.Machine.execResume k s
  | .agingTick k => Sys2Proof.Machine.execAgingTick k s
  | .sweepPassStart ctx bay => Sys2Proof.Machine.execSweepPassStart ctx bay s
  | .sweepLineStep ctx bay => Sys2Proof.Machine.execSweepLineStep ctx bay s
  | .streamedBundle bay seq b => Sys2Proof.Machine.execStreamedBundle bay seq b s
  | .powerOnReset verified => Sys2Proof.Machine.execPowerOnReset verified s
  | .selfTestEnd failed => Sys2Proof.Machine.execSelfTestEnd failed s
  | .memoryWipeEnd => Sys2Proof.Machine.execMemoryWipeEnd s
  | .linkTrainingEnd => Sys2Proof.Machine.execLinkTrainingEnd s
  | .lifecycleRequest r => Sys2Proof.Machine.execLifecycleRequest r s
  | .attestationRequest nonce => Sys2Proof.Machine.execAttestationRequest nonce s
  | .firmwareUpdate auth verified image => Sys2Proof.Machine.execFirmwareUpdate auth verified image s
  | .telemetryRequest auth => Sys2Proof.Machine.execTelemetryRequest auth s
  | .unitFence u => Sys2Proof.Machine.execUnitFence u s
  | .sramSoftError u => Sys2Proof.Machine.execSramSoftError u s
  | .sramUncorrectableError u => Sys2Proof.Machine.execSramUncorrectableError u s
  | .hbmUncorrectableError burst => Sys2Proof.Machine.execHbmUncorrectableError burst s
  | .linkRetrainTimeout link => Sys2Proof.Machine.execLinkRetrainTimeout link s
  | .thermalWarning => Sys2Proof.Machine.execThermalWarning s
  | .thermalTrip die => Sys2Proof.Machine.execThermalTrip die s
  | .sleepEnd => Sys2Proof.Machine.execSleepEnd s
  | .linkRetrainStart link => Sys2Proof.Machine.execLinkRetrainStart link s

end Sys2Proof.Machine
end

