-- ==== Sys2Proof/Machine/Issue.lean ====
section
/-! DEFINITION. The sequencer of a core (R46, R203 to R216, R394, R395): what holds a bundle, which trap takes its place, the brace, the
issue of its slots, the passing of control; the turn of a core in one cc, and the clock. -/

namespace Sys2Proof.Machine

/-! ## What a bundle names -/

/-- The form of a C-slot operation. -/
def cFormOf : Instr → Option CForm
  | .cpget f | .cpput f | .cpfill f | .cpstr f | .cptile f | .cppair f | .cpbay f | .nmcmd f | .cpwget f | .cpwput f | .cpwacc f
  | .hget f | .hput f | .hacc f | .fence f | .scfence f | .wcreate f | .wfree f | .wget f | .wput f | .wacc f | .wfaa f | .wcas f
  | .wswap f | .wfence f | .wpost f | .wstart f | .wcmpl f | .wwait f | .wlock f | .wunlk f | .cntinc f | .cntrd f | .ctrig f
  | .ctdis f | .barinit f | .bararr f | .barwait f | .bayadd f | .baycas f | .coll f | .collq f => some f
  | _ => none

/-- The handle that a C-slot operation names in its descriptor (R61, R174). -/
def Core.handleIn (c : Core) (i : Instr) : Option Nat := (cFormOf i).bind fun f => c.namedHandle (opcodeOf i) f

/-- The kind and tile of an M-slot operation that names one. -/
def mTileOf : Instr → Option (MKind × Nat)
  | .mma f => some (.mma, f.zd.toNat)
  | .mmai f => some (.mmai, f.zd.toNat)
  | .mmas f => some (.mmas, f.zd.toNat)
  | .mzero f => some (.mzero, f.zd.toNat)
  | .mzld f => some (.mzld, f.zd.toNat)
  | .mzst f => some (.mzst, f.zd.toNat)
  | _ => none

/-- The tile of a VZRD or VZWR. -/
def vTileOf : Instr → Option Nat
  | .vzrd f => some f.va.toNat
  | .vzwr f => some f.va.toNat
  | _ => none

/-- The pool bytes that an S- or V-slot operation accesses through an address register, as the register's value and runs of bytes; an
operation that does not act touches none (R206). -/
def Core.slotAccess (c : Core) : Instr → Option (W64 × List (Nat × Nat))
  | .lds f | .sts f =>
    if c.rp f.pg.toNat then some (c.ra f.sa.toNat, [(poolOff (c.ra f.sa.toNat) f.imm, accessSize f.imm)]) else none
  | .hld f | .hst f => if c.rp f.pg.toNat then some (c.ra f.sa.toNat, [(poolOff (c.ra f.sa.toNat) f.imm, 8)]) else none
  | .vld f | .vst f => some (c.ra f.va.toNat, (actingLanes c f).map fun l => (vBase c f + 4 * l, 4))
  | .vldx f | .vstx f => some (c.ra f.va.toNat, (actingLanes c f).map fun l => (vIndexed c f l, 4))
  | .vldmb f | .vstmb f =>
    some (c.ra f.va.toNat, ((List.range 8).filter fun k => bitOf k f.cm.toNat).map fun k => (vBase c f + 2 * k, 2))
  | _ => none

/-- The banks that operations of earlier bundles hold reserved (R134, R151, R207). -/
def Core.heldBanks (c : Core) : List Nat :=
  ((c.mq.filter fun o => o.holding c.clk).map (·.banks)).flatten ++
    ((c.ops.filter fun o => o.stage != .localDone).map (·.banks)).flatten ++
    ((c.freed.filter fun f => f.1 == c.clk).map (·.2)).flatten

/-! ## Holds (R203, R394) -/

/-- Cause 1 for one operation: a register it names has a write pending, or a VZWR is writing the tile of a VZRD or VZWR (R72, R100).
[DEDUCED: log 93] -/
def Core.registerHeld (c : Core) (i : Instr) : Bool :=
  (readsOf i ++ writesOf i).any c.pending || (vTileOf i).any c.zPending

/-- Cause 1 for a bundle. -/
def Core.writePending (c : Core) (b : Bundle) : Bool := b.ops.any c.registerHeld

/-- Cause 2 for one operation: the tile, where it is busy (R124, R133). A chained operation is excused the busy bit of the one it chains
to. -/
def Core.tileHeld (c : Core) (i : Instr) : Option Nat :=
  match vTileOf i, mTileOf i with
  | some z, _ => if c.tileBusy z then some z else none
  | none, some (kind, z) =>
    let others := if c.chains kind z then { c with mq := c.mq.dropLast } else c
    if others.tileBusy z || c.zPending z then some z else none
  | none, none => none

/-- Cause 5 for one operation. -/
def Core.bankHeld (c : Core) (i : Instr) : Bool :=
  match c.slotAccess i with
  | none => false
  | some (a, runs) =>
    let held := c.heldBanks
    !held.isEmpty && (c.reserve a runs).any fun b => held.contains b

/-- Cause 6 for one operation: the handle it names, a CTRIG's in its access descriptor, is pending or local (R174, R188).
[DEDUCED: log 88] -/
def Core.handleHeld (c : Core) (i : Instr) : Option Nat :=
  match c.handleIn i with
  | none => none
  | some h => if (c.rc h).st == .pending || (c.rc h).st == .localDone then some h else none

/-- Cause 7: the promise that a SLEEPT would sleep to is not set yet (R205). -/
def Core.promiseUnset (c : Core) : Instr → Option Nat
  | .sleept f =>
    let t := f.sa.toNat
    let id := (c.rt t).owner
    if c.rp f.pg.toNat && !(c.rt t).done &&
        (c.mq.any (fun o => o.id == id && !o.started) || c.ops.any fun o => o.id == id && o.promise.isNone) then some t else none
  | _ => none

/-- What keeps a bundle from issuing in a cc: a hold by its code, or the trap that takes a hold's place. -/
inductive Hold where
  | stall (cause : Nat)
  | trap (t : Trap)
  deriving DecidableEq, Repr

/-- The first trap of R394 among some slots: the lowest slot. -/
def firstOf (l : List (Option Trap)) : Option Trap := l.findSome? id

/-- Whether this bundle's own brace is still to come (R395). [DEDUCED: log 94] -/
def Core.braceDue (c : Core) (b : Bundle) : Bool := b.brace && !c.braced

/-- The first cause of R203 that holds, 8 apart, and what it does (R394). A hold that only this bundle's own brace keeps up is no
WAIT-WITHHELD (R93, R395). -/
def Core.holdOf (c : Core) (b : Bundle) : Option Hold :=
  let tiles := b.ops.map fun i => (c.tileHeld i).map fun z => (⟨0x0003, slotOf i, z⟩ : Trap)
  let stuck (i : Instr) (n : Nat) : Option Trap :=
    if !c.braceDue b && c.handleWithheld n true then some (withheldTrap (slotOf i) n true) else none
  let handles := b.ops.filterMap fun i => (c.handleHeld i).map fun n => (i, n)
  if c.writePending b then some (.stall 1)
  else match firstOf tiles with
    | some t => some (if c.strict then .trap t else .stall 2)
    | none =>
      if !isNop b.m && decide (4 ≤ (c.mq.filter fun o => !o.started).length) then some (.stall 3)
      else if (!isNop b.c0 && decide (8 ≤ (c.ops.filter fun o => o.f.unit == .c0 && o.stage == .queued).length)) ||
          (!isNop b.c1 && decide (8 ≤ (c.ops.filter fun o => o.f.unit == .c1 && o.stage == .queued).length)) then some (.stall 4)
      else if b.ops.any c.bankHeld then some (.stall 5)
      else if !handles.isEmpty then
        some (match firstOf (handles.map fun h => stuck h.1 h.2) with
          | some t => .trap t
          | none => .stall 6)
      else match c.promiseUnset b.s with
        | some _ => some (.stall 7)
        | none => if c.braceDue b && c.undrained != 0 then some (.stall 9) else none

/-- The end of a run of held cc of the core in focus. -/
def State.endRun (s : State) : State :=
  match s.mine with
  | some k => s.mapCore fun c => c.endRun k.trace s.mcyc
  | none => s

/-- The end of a segment miss of the core in focus. -/
def State.endMiss (s : State) : State :=
  match s.mine with
  | some k => s.mapCore fun c => c.endMiss k.trace s.mcyc
  | none => s

/-- A cc held: counted against its cause, and the bundle is tried again in the next cc (R203). -/
def State.hold (s : State) (n : Nat) : State :=
  let s := if s.core.trace.run.1 = n then s else s.endRun
  s.mapCore fun c =>
    { c with stalls := Sparse.set 0 c.stalls n (Sparse.get 0 c.stalls n + 1), notBefore := c.clk + 1,
             trace := { c.trace with run := (n, c.trace.run.2 + 1),
                                     miss := if n = 8 ∧ c.trace.miss ≠ 0 then c.trace.miss + 1 else c.trace.miss } }

/-! ## Fetching (R65, R67, R68, R216) -/

/-- Whether the expander may still produce the bundle at the core's position. -/
def Core.mayCome (c : Core) : Bool := c.cur.seg == some c.pos.seg && !c.cur.complete && decide (c.cur.pos ≤ c.pos.unit)

/-- No bundle stands at the core's position yet: a hold of cause 8, the end of a segment, or a branch whose target is none. -/
def State.noBundle (s : State) : Result :=
  let c := s.core
  if c.mayCome then .next (s.hold 8)
  else match c.src with
    | some (p, ret) =>
      let s := s.endRun.endMiss
      if ret && s.atSegmentEnd then exec .segmentEnd s
      else
        let s := s.mapCore fun c => { c with pos := p, src := none }
        .next (s.takeTrap s.badTarget)
    | none => if s.atSegmentEnd then exec .segmentEnd s.endRun.endMiss else .next (s.hold 8)

/-- A bundle has been found where the core stands: a branch to it was valid, and a segment miss is over (R68, R218). -/
def State.found (s : State) : State := s.endMiss.mapCore fun c => { c with src := none }

/-! ## Issue (R46, R347) -/

/-- Whether the core in focus took a trap between two states. -/
def State.trapped (s t : State) : Bool :=
  (!s.core.mode && t.core.mode) || (t.kernel? s.core.kernel).any fun k => k.ending.isSome

/-- One result after another. -/
def andThen (r : Result) (f : State → Result) : Result :=
  match r with
  | .next s => f s
  | .fault e => .fault e
  | .refused e => .refused e

/-- Operations executed one after another. -/
def runSlots : List Instr → State → Result
  | [], s => .next s
  | i :: rest, s => andThen (exec i s) (runSlots rest)

/-- The first of some slots that would trap at issue, with the trap taken: none of the bundle's slots then issues. -/
def trapOf (s : State) : List Instr → Option Result
  | [] => none
  | i :: rest => match exec i s with
    | .next t => if s.trapped t then some (.next t) else trapOf s rest
    | r => some r

/-- The conflict of handles that is found at issue (R61, R70). -/
def Core.handleConflict (c : Core) (b : Bundle) : Bool :=
  match c.handleIn b.c0, c.handleIn b.c1 with
  | some x, some y => x == y
  | _, _ => false

/-- The trap a bundle raises at its issue: the lowest slot's (R347); at C1, a handle that C0 names too before its descriptor.
[DESIGN CHOICE: log 118] -/
def State.bundleTrap (s : State) (b : Bundle) : Option Result :=
  match trapOf s [b.s, b.va, b.vb, b.m, b.c0] with
  | some r => some r
  | none =>
    if s.core.handleConflict b then some (.next (s.takeTrap (Trap.encoding ⟨0x06, 0xFF, .c1⟩ s.core.pos.unit)))
    else trapOf s [b.c1, b.k]

/-- Whether a slot operation ends the kernel-mode or handler-mode stretch it stands in: HALT and TRET release what their own bundle
withholds as well (R89, R338). [DEDUCED: log 35] -/
def releases (c : Core) : Instr → Bool
  | .halt f => c.rp f.pg.toNat
  | .tret f => c.rp f.pg.toNat
  | _ => false

/-- A wait in the S slot goes on when a receive in the K slot has frozen the core. [DEDUCED: log 96] -/
def Core.keepWait (before after : Core) : Core :=
  if after.run ≠ before.run ∧ before.run ≠ RunState.running then { after with resumeTo := before.run } else after

/-- The stores of a bundle made, in slot order. Those of a TRET's bundle are writes of handler mode, as is what its slots and the handler's
earlier bundles have left on its way: none of it is logged (R81, R338). -/
def Core.finishSlots (c : Core) (handler : Bool) : Core :=
  if handler && !c.mode then
    { ({ c with mode := true } : Core).poolWrite c.stores with mode := false, left := c.left ++ c.pend, pend := [] }
  else c.poolWrite c.stores

/-- The slots of a bundle issue: each reads the state from before the bundle, and the stores are made in slot order (R46, R81). -/
def State.issueSlots (s : State) (b : Bundle) : Result :=
  andThen (runSlots [b.s, b.va, b.vb, b.m, b.c0, b.c1] s) fun t =>
    andThen (exec b.k t) fun u =>
      let u := u.mapCore fun c =>
        { (t.core.keepWait c).finishSlots s.core.mode with
          stores := [], racing := [], issued := true, notBefore := max c.notBefore (c.clk + 1) }
      let u := if releases s.core b.s then u.release else u
      .next u.settle

/-- Control passes on from a bundle that has issued: to its branch target, or to what follows it. One that has put the core into a wait or
a freeze is passed when that has ended. [DESIGN CHOICE: log 168] -/
def State.passOn (s : State) : State :=
  match s.mine with
  | none => s
  | some k => s.mapCore fun c =>
    match c.npos with
    | some p => c.goto k p
    | none => match c.item with
      | some i => c.goto k (c.following k i)
      | none => { c with issued := false }

/-- With a checkpoint pending, a core in kernel mode stops at a BRACE bundle or a YIELD, once the bundle has issued whole (R352). In a kernel
with circuits all cores stop in one chosen cc; after a YIELD the core issues nothing until then (R89). -/
def State.stopIfAsked (s : State) (brace handler : Bool) : State :=
  match s.mine with
  | none => s
  | some k =>
    if k.phase = .checkpointing ∧ !handler ∧ k.img.circuits.isEmpty ∧ (brace ∨ s.core.stopReq) ∧ s.core.run ≠ .halting ∧
        !k.ending.isSome ∧ !s.core.mode then
      (s.stopCore s.core.ref).checkStopped k.seq
    else s

/-- The bytes of the pool of the core in focus that accesses under way have yet to change, as its slots meet them in a bundle: each is read
old or new (R208, R263). [DESIGN CHOICE: log 172] -/
def State.race (s : State) : State :=
  let here := s.underWay.filter fun a => match s.placeNow a with | some (.pool ref _) => ref == s.core.ref | _ => false
  if here.isEmpty then s
  else
    let t := here.foldl (fun (t : State) a => match t.placeNow a with | some p => t.applyRest a p | none => t) s
    let new := (((s.core.pool ++ t.core.pool).map (·.1)).dedup.filterMap fun k =>
      let b : Byte := Sparse.get 0 t.core.pool k
      if b = Sparse.get 0 s.core.pool k then none else some (k, b))
    let seen := (new.zipIdx.filter fun x => Config.choice (s.fresh + x.2)).map (·.1)
    { s.mapCore fun c => { c with racing := seen } with fresh := s.fresh + new.length }

/-- A bundle that nothing holds: the trap of its lowest slot, or the issue of all of them; then control passes on, unless the core now
waits or freezes. -/
def State.issue (s : State) (b : Bundle) : Result :=
  let s := (s.addSteps s.core.ref).endRun.race
  let s := s.mapCore fun c => { c with first := c.nextOp }
  match s.bundleTrap b with
  | some r => andThen r fun s => .next (s.mapCore fun c => { c with racing := [] })
  | none =>
    let t := if b.tmark then exec .tmark s else .next s
    andThen t fun s => andThen (s.issueSlots b) fun u =>
      let u := u.stopIfAsked b.brace s.core.mode
      .next (if u.core.run = RunState.running ∧ u.core.issued then u.passOn else u)

/-- One attempt at the bundle next to issue (R394, R395). A bundle that traps where a TRET has returned to it finds the copies of that issue
taken by the rollback (R348). -/
def State.attempt (s : State) : Result :=
  match s.core.item with
  | none => s.noBundle
  | some i =>
    let s := s.found
    match i.bad with
    | some r => exec (.illegalEncoding r) s.endRun
    | none =>
      let b := i.bundle
      let c := s.core
      if !c.writePending b && c.reissue && !c.braceDue b && !c.mode then .next (s.mapCore Core.startInterval)
      else if !c.writePending b && c.braceDue b && c.undrained == 0 then exec .brace s
      else match c.holdOf b with
        | some (.stall n) => .next (s.hold n)
        | some (.trap t) => .next ((s.addSteps s.core.ref).endRun.takeTrap t)
        | none => s.issue b

/-! ## The turn of a core -/

/-- A sleep is over: the promise has come; a matrix operation lands first, for it is done at its promise (R90, R210). -/
def Core.sleepDue (c : Core) (now : Nat) : Bool :=
  match c.run with
  | .sleeping _ => decide (c.waited.promise.toNat ≤ now) && (c.waited.done || !c.mq.any fun o => o.id == c.waited.owner)
  | _ => false

/-- A result of some slots is due. -/
def Core.resultDue (c : Core) (sel : Slot → Bool) : Bool := (c.left ++ c.pend).any fun p => sel p.slot && decide (p.due ≤ c.clk)

/-- Whether the engines of the core in focus wait for the backlog of its kernel: they take their saved queues once it is replayed (R357). -/
def State.enginesHeld (s : State) : Bool := s.mine.any (·.replaying)

/-- What the core in focus does next in this cc, if anything is left. -/
def State.action (s : State) : Option Result :=
  let c := s.core
  match c.run with
  | .stopped => none
  | .loaded => none
  | .frozen f =>
    if c.wdog.toNat ≤ c.frozenFor ∧ c.kernel ≠ 0 then some (exec .wdogExpiry s)
    else match f with
      | .yard w => if w.due ≤ s.now then some (exec (.yardLookupReply none) s) else none
      | _ => none
  | _ =>
    if c.sleepDue s.now then some (exec .sleepEnd s)
    else if c.resultDue inS then some (exec .sResultLand s)
    else if c.resultDue inV then some (exec .vResultLand s)
    else if c.canLand.isSome then some (exec .mResultLand s)
    else if !s.enginesHeld && c.canStart.isSome then some (exec .mOpStart s)
    else if !s.enginesHeld && (s.canAccept .c0).isSome then some (exec (.cOpAccept .c0) s)
    else if !s.enginesHeld && (s.canAccept .c1).isSome then some (exec (.cOpAccept .c1) s)
    else if c.run = RunState.halting ∧ c.quietNow ∧ c.mq = [] then some (exec .coreHalted s)
    else if c.run = RunState.running ∧ c.kernel ≠ 0 ∧ c.issued then some (.next s.passOn)
    else if c.run = RunState.running ∧ c.kernel ≠ 0 ∧ c.notBefore ≤ c.clk ∧ !c.stopReq then some s.attempt
    else if c.kernel ≠ 0 ∧ (c.cur.due c.clk || c.idle.due c.clk) then some (exec .expandBundle s)
    else none

/-- The end of a core's turn: waits that are over end, and held operations move on where nothing holds them any more. -/
def State.endTurn (s : State) : State :=
  (if s.enginesHeld then s.wake else s.wake.pump).mapCore fun c => { c with turned := true }

/-- Whose turn it is: the core in focus, then the peers in rising order. -/
def State.nextTurn (s : State) : Option Nat :=
  if !s.core.turned then some s.core.ref else (s.peers.find? fun c => !c.turned).map (·.ref)

/-! ## The clock -/

/-- One cc over for a core: its units count it unless they are frozen; a freeze grows by it, and puts off the promises of the matrix
operations under way (R209 to R211). -/
def Core.tick (c : Core) : Core :=
  match c.run with
  | .frozen _ =>
    let c := { c with turned := false, frozenFor := c.frozenFor + 1 }
    (c.mq.filter (·.started)).foldl (fun c o => c.onToken o.id fun t => { t with promise := t.promise + 1 }) c
  | _ => { c with turned := false, clk := c.clk + 1 }

/-- One cc over: MCYC rises, and the command processor takes at most one entry of each turn (R4, R360). -/
def State.tick (s : State) : State :=
  let s : State := { s with mcyc := s.mcyc + 1, core := s.core.tick, peers := s.peers.map Core.tick }
  s.cpTurn

/-! ## What the machine does next -/

/-- Whether a step of the agenda comes after the turns of the cores in its cc: the bound of a checkpoint, for a trap that meets it is taken
first (R347). -/
def Due.comesLast (d : Due) : Bool := match d.ev with | .checkpointBoundExpiry _ => true | _ => false

/-- The first step of an agenda that is due, with the rest; those that come last are passed over unless they are asked for. -/
def dueIn (now : Nat) (last : Bool) : List Due → Option (Due × List Due)
  | [] => none
  | d :: rest =>
    if now < d.at_ then none
    else if d.comesLast && !last then (dueIn now last rest).map fun x => (x.1, d :: x.2)
    else some (d, rest)

/-- The step of the agenda that is due, with the rest of the agenda. -/
def State.dueNow (s : State) (last : Bool) : Option (Due × List Due) := dueIn s.now last s.agenda

/-- A step of the agenda taken, on the core it belongs to. -/
def State.takeDue (s : State) (d : Due) (rest : List Due) : Result :=
  let s : State := { s with agenda := rest }
  exec d.ev (match d.core with | some r => s.focus r | none => s)

/-- A core's next action, or the end of its turn. -/
def State.takeTurn (s : State) (ref : Nat) : Result :=
  let s := s.focus ref
  match s.action with
  | some r => r
  | none => .next s.endTurn

/-- Nothing is left to do in this cc: the next begins, unless the module has come to a stop that only a reset ends (R381, R382).
[DESIGN CHOICE: log 114] -/
def State.endCycle (s : State) : Result :=
  if s.sys.boot = BootStep.stopped then .fault .bootStopped
  else if s.sys.life = LifeState.decommissioned ∧ (s.sys.boot = BootStep.wiped ∨ s.sys.boot = BootStep.open_) then .fault .decommissioned
  else .next s.tick

/-- The steps of a cc in order: what the agenda holds for it, a streamed bundle that is due, what has come in from outside, each core's
turn, the bound of a checkpoint, and the end. [DESIGN CHOICE: log 9] -/
def State.proceed (s : State) : Result :=
  match s.dueNow false with
  | some (d, rest) => s.takeDue d rest
  | none => match s.streamDown with
    | some t => .next t
    | none => match s.inputs with
      | i :: rest => exec i { s with inputs := rest }
      | [] => match s.nextTurn with
        | some r => s.takeTurn r
        | none => match s.dueNow true with
          | some (d, rest) => s.takeDue d rest
          | none => s.endCycle

/-! ## Fetching a given word -/

/-- The word as a bundle of the dictionary. [DESIGN CHOICE: log 7] -/
def fetchWord (nbits w : Nat) : BitVec 384 := BitVec.ofNat 384 (w % 2 ^ nbits)

/-- A segment header with both pointers null, for one unit (R66). -/
def oneUnitHeader : BitVec 128 := BitVec.ofNat 128 (nullSeg <<< 50 ||| nullSeg <<< 24 ||| 1)

/-- A kernel image of one core whose one bundle is a given word; its K slot's circuit leads from the core to itself. -/
def fetchImage (b : BitVec 384) : KernelImage where
  footprints := [.any 1]
  part := 0xBE0
  buffers := []
  circuits := [⟨field 17 10 (slotBits .k b), 0, 0, 1, 1, []⟩]
  fm := []
  rows := []
  consts := []
  dict := [b]
  segs := [⟨oneUnitHeader, [0]⟩]
  entry := some 0
  handler := none
  symbols := []

/-- A bound and started kernel of that image on one core. -/
def fetchKernel (b : BitVec 384) (seq ref : Nat) (gbay : Nat) : Kernel where
  seq := seq
  ctx := 0
  tag := 0
  img := fetchImage b
  imgKey := (0, 0)
  cls := 0
  tokens := 0
  age := 0
  ageAt := 0
  ckpt := false
  killable := false
  stepo := true
  wdog := 2 ^ 20
  ckBound := 2 ^ 16
  backlog := 2 ^ 12
  trace := 0
  kest0 := 0
  depA := 0
  depB := 0
  roots := []
  queues := []
  phase := .bound
  horizon := 0
  cores := [ref]
  ords := [gbay]
  saved := []
  boundAt := 0
  started := true
  ending := none
  decideFrom := 1
  record := none

/-- The module with a kernel of one bundle bound to the core in focus, that bundle expanded, its brace (if it has one) behind it, and
nothing else due before its issue. -/
def State.placeWord (s : State) (nbits w : Nat) : State :=
  let b := fetchWord nbits w
  let seq := s.cp.nextSeq
  let k := fetchKernel b seq s.core.ref (s.globalBay (bayOf s.core.ref))
  let c := { (k.launchCore s.core.ref 0 0 s.core) with run := .running, notBefore := s.core.clk, braced := true }
  let s := if (s.ctx? 0).isSome then s else { s with contexts := s.contexts ++ [Context.fresh 0 false false true none] }
  { s with sys := { s.sys with boot := .open_ }, kernels := s.kernels ++ [k], core := c, agenda := [], inputs := [], streams := [],
           cp := { s.cp with nextSeq := seq + 1 } }

end Sys2Proof.Machine
end

