-- ==== Sys2Proof/WellFormed.lean ====
section
/-! DEFINITION. Which terms of `Instr` stand for an operation the device can meet: a slot operation passes the checks its
encoding undergoes (R46, R54 to R60, R70), and an event names a unit, core, window or port that exists (R1, R9). -/

namespace Sys2Proof

open Sys2Proof.Machine

/-- A core reference of the module: bay × 192 + COREID (R9). -/
def coreRefOk (ref : Nat) : Bool := decide (ref < 8 * 192)

/-- A bay of the module (R1). -/
def bayOk (b : Nat) : Bool := decide (b < 8)

/-- A window key names a bay, a 16-bit context and an 8-bit window id (R178, R243). -/
def WinKey.ok (w : WinKey) : Bool := bayOk w.bay && decide (w.ctx < 2 ^ 16) && decide (w.win < 256)

/-- A region key names a 16-bit context and an 8-bit region number (R320). -/
def RegKey.ok (r : RegKey) : Bool := decide (r.ctx < 2 ^ 16) && decide (r.rid < 256)

/-- A fencing unit names a unit of this module (R1, R387). R1 gives two stacks a bay and no count of channels: the model takes 64 a bay.
[DESIGN CHOICE: log 70] -/
def UnitId.ok : UnitId → Bool
  | .core b i => bayOk b && decide (i < 192)
  | .engine b i _ => bayOk b && decide (i < 192)
  | .port b n => bayOk b && decide (n < 4)
  | .channel b n => bayOk b && decide (n < 64)
  | .link n => decide (n < 18)
  | .bay n => bayOk n

/-- Which header no-op may stand alone: none; the slots have no-ops, the header has bits (R46). -/
def nopOk : Slot → Bool
  | .header => false
  | _ => true

/-- A C-slot operation that only C1 may carry stands in C1 (R54, reason 0x05). -/
def unitOk (i : Instr) : Bool := !(c1Only i && slotOf i == .c0)

/-- The payload of an event is in range; a slot operation has no payload of this kind. -/
def payloadOk : Instr → Bool
  | .nop sl => nopOk sl
  | .illegalEncoding r => decide (1 ≤ r.reason) && decide (r.reason ≤ 0x0D)
  | .remoteAccessArrival a => a.key.ok
  | .targetAwayRetry a => a.key.ok
  | .wfenceArrival m => m.key.ok
  | .postArrival m => m.key.ok
  | .completionNoticeArrival m => m.key.ok
  | .lockRequestArrival m => m.key.ok
  | .unlockArrival m => m.key.ok
  | .lockRetry m => m.key.ok
  | .lockBreak w => w.ok
  | .counterIncrement m => bayOk m.bay
  | .triggerFire c t => coreRefOk c && decide (t < 256)
  | .bayAtomicOp c _ => coreRefOk c
  | .circuitEntryArrival m => coreRefOk m.core
  | .doneNoticeArrival m => m.key.ok
  | .collFinishedArrival m => m.key.ok
  | .collAbortArrival m => m.key.ok
  | .collDeadline m => m.key.ok
  | .relayBatchTurn r => r.ok
  | .flipFenceAck r c _ => r.ok && coreRefOk c
  | .relayCopy r => r.ok
  | .relayFinish r => r.ok
  | .epochAdvance r => r.ok
  | .sweepPassStart _ b => bayOk b
  | .sweepLineStep _ b => bayOk b
  | .streamedBundle b _ _ => bayOk b
  | .unitFence u => u.ok
  | .sramSoftError (.corrected u) => u.ok
  | .sramSoftError (.entry b _ _) => bayOk b
  | .sramUncorrectableError u => u.ok
  | .linkRetrainTimeout l => decide (l < 18)
  | .linkRetrainStart l => decide (l < 18)
  | .thermalTrip d => decide (d < 9)
  | .submissionQueueTailWrite r _ k _ => decide (r < 16) && decide (4 ≤ k) && decide (k ≤ 12)
  | _ => true

/-- Well-formed: every field allowed, in the right engine, with a payload in range. -/
def Instr.wf (i : Instr) : Bool := (badField i).isNone && unitOk i && payloadOk i

end Sys2Proof
end

