-- ==== Sys2Proof/Safety.lean ====
section
/-! DEFINITION. What claims about runs are stated in: the canonical form that every step keeps, and a run that never stops. -/

namespace Sys2Proof.Safety

open Sys2Proof.Machine

/-- HBM is in its canonical form: addresses rise strictly and no zero byte is listed. -/
def Canonical (s : State) : Prop := Memory.wf s.hbm = true

/-- A run of n steps that meets no fault and no refusal. -/
def RunsOn : Nat → State → Prop
  | 0, _ => True
  | n + 1, s => ∃ t, step s = .next t ∧ RunsOn n t

/-- The states in which the machine has come to a stop: boot stopped at a failed check (R381), or, once memory is wiped, the
DECOMMISSIONED state (R382). -/
def AtRest (s : State) : Prop :=
  s.sys.boot = BootStep.stopped ∨
    (s.sys.life = LifeState.decommissioned ∧ (s.sys.boot = BootStep.wiped ∨ s.sys.boot = BootStep.open_))

end Sys2Proof.Safety
end

