-- ==== Sys2Proof/Certificates/Slice0/Obligations.lean ====
section
/-! DEFINITION. The statements for the provers, with the vocabulary they share (namespace Claims). Each names the rule it formalises
or the model's choice it rests on. A next state written out as a record update says its own frame: nothing else changes. -/

namespace Sys2Proof.Claims

open Sys2Proof.Machine

/-- The operation completes and leaves one more result on its way to its destinations, due `lat` cc after issue; nothing else of the
state changes. -/
def Queues (i : Instr) (s : State) (sl : Slot) (lat : Nat) (d : List Dst) (f : Flags) : Prop :=
  exec i s = .next { s with core := { s.core with pend := s.core.pend ++ [⟨s.core.clk + lat, sl, d, f⟩] } }

/-- The operation completes and adds bytes to the stores its bundle makes; nothing else of the state changes. -/
def Stores (i : Instr) (s : State) (kvs : List (Nat × Byte)) : Prop :=
  exec i s = .next { s with core := { s.core with stores := s.core.stores ++ kvs } }

/-- What the operation does to the core in focus, and that it changes nothing else. -/
def ToCore (i : Instr) (s : State) (f : Core → Core) : Prop := exec i s = .next { s with core := f s.core }

/-- What taking a trap leaves (R337, R342, R345), where `g` is the kernel's handler segment: the registers of the last brace, the pool
as the shore log restores it, which keeps the staged bytes of earlier intervals, the saved status and the trap registers, handler mode,
and control at offset 0 of the handler. `d` is the core once what an earlier handler has left on its way has landed and, where a TRET
has yet to reach its target, with the copies of that issue (R338, R348; the model's reading: log 173). Nothing outside the core
changes. -/
def TrapTaken (s t : State) (g : Nat) (tr : Trap) : Prop :=
  let d := s.core.settleLeft.renew
  t.core.mode = true ∧ t.core.pos = ⟨g, 0⟩ ∧ t.core.run = .running ∧
  t.core.ksave = statusWord d.flags d.brace.strict false ∧ t.core.flags = d.flags ∧
  t.core.strict = d.brace.strict ∧ t.core.trapPc = d.brace.pos.word ∧ t.core.trapAt = s.core.pos.word ∧
  t.core.trapSlot = BitVec.ofNat 8 (slotNum tr.slot) ∧ t.core.trapCause = BitVec.ofNat 16 tr.cause ∧
  t.core.trapInfo = BitVec.ofNat 64 tr.info ∧
  t.core.s = d.brace.s ∧ t.core.p = d.brace.p ∧ t.core.q = d.brace.q ∧ t.core.a = d.brace.a ∧
  t.core.h = d.brace.h ∧ t.core.lc = d.brace.lc ∧ t.core.fm = d.brace.fm ∧ t.core.kest = d.brace.kest ∧
  t.core.ftb = d.brace.ftb ∧ t.core.ftsel = d.brace.ftsel ∧
  t.core.pool = (d.log.foldl Core.undo d).pool ∧ t.core.v = (d.log.foldl Core.undo d).v ∧
  t.core.z = (d.log.foldl Core.undo d).z ∧ t.core.log = d.log.filter (fun r => r.ivl != d.interval) ∧ t.core.pend = [] ∧ t.core.left = [] ∧
  t.core.stores = [] ∧
  t = { s with core := t.core }

/-- The core in focus runs, in kernel mode, a kernel whose handler segment is `g`. -/
def Handled (s : State) (g : Nat) : Prop := s.core.mode = false ∧ ∃ k, s.mine = some k ∧ k.img.handler = some g

/-- The operation completes by taking a trap to the handler. -/
def Traps (i : Instr) (s : State) (g : Nat) (tr : Trap) : Prop := ∃ t, exec i s = .next t ∧ TrapTaken s t g tr

/-! ## Values of scalar operations -/

/-- The R forms of R74 with the latency of R72 and the value, below 2^64, that R74 gives; the flag is DZ. -/
def integerR (c : Core) (f : RForm) : List (Instr × Nat × Nat × Bool) :=
  let x := c.rs f.sa.toNat
  let y := c.rs f.sb.toNat
  let n := y.toNat % 64
  let signed := f.fn.getLsbD 0
  [ (.add f, 1, (x.toNat + y.toNat) % 2 ^ 64, false), (.sub f, 1, (x.toNat + 2 ^ 64 - y.toNat) % 2 ^ 64, false),
    (.mul f, 1, x.toNat * y.toNat % 2 ^ 64, false),
    (.mulh f, 1, if signed then wrapNat 64 (x.toInt * y.toInt / 2 ^ 64) else x.toNat * y.toNat / 2 ^ 64, false),
    (.div f, 18, if y = 0 then 2 ^ 64 - 1 else if signed then wrapNat 64 (x.toInt.tdiv y.toInt) else x.toNat / y.toNat, y == 0),
    (.rem f, 18, if y = 0 then x.toNat else if signed then wrapNat 64 (x.toInt - x.toInt.tdiv y.toInt * y.toInt)
      else x.toNat - x.toNat / y.toNat * y.toNat, y == 0),
    (.and f, 1, x.toNat &&& y.toNat, false), (.or f, 1, x.toNat ||| y.toNat, false), (.xor f, 1, x.toNat ^^^ y.toNat, false),
    (.andn f, 1, x.toNat &&& (2 ^ 64 - 1 - y.toNat), false), (.shl f, 1, x.toNat * 2 ^ n % 2 ^ 64, false),
    (.shr f, 1, x.toNat / 2 ^ n, false), (.sra f, 1, wrapNat 64 (x.toInt / 2 ^ n), false),
    (.rot f, 1, (x.toNat / 2 ^ n + x.toNat * 2 ^ (64 - n)) % 2 ^ 64, false),
    (.min f, 1, if signed then (if x.toInt ≤ y.toInt then x.toNat else y.toNat) else Nat.min x.toNat y.toNat, false),
    (.max f, 1, if signed then (if x.toInt ≤ y.toInt then y.toNat else x.toNat) else Nat.max x.toNat y.toNat, false),
    (.clz f, 1, 64 - x.toNat.size, false), (.popc f, 1, ((List.range 64).filter fun i => x.getLsbD i).length, false),
    (.sel f, 1, if c.rp f.fn.toNat then x.toNat else y.toNat, false) ]

/-- The I forms of R74: arithmetic on the immediate sign-extended, logic and shifts on it zero-extended (R55). -/
def integerI (c : Core) (f : IForm) : List (Instr × Nat × Nat × Bool) :=
  let x := c.rs f.sa.toNat
  let y := f.imm.toInt
  let u := f.imm.toNat
  let n := u % 64
  [ (.addI f, 1, wrapNat 64 (x.toInt + y), false), (.subI f, 1, wrapNat 64 (x.toInt - y), false),
    (.mulI f, 1, wrapNat 64 (x.toInt * y), false), (.mulhI f, 1, wrapNat 64 (x.toInt * y / 2 ^ 64), false),
    (.divI f, 18, if u = 0 then 2 ^ 64 - 1 else wrapNat 64 (x.toInt.tdiv y), u == 0),
    (.remI f, 18, if u = 0 then x.toNat else wrapNat 64 (x.toInt - x.toInt.tdiv y * y), u == 0),
    (.andI f, 1, x.toNat &&& u, false), (.orI f, 1, x.toNat ||| u, false), (.xorI f, 1, x.toNat ^^^ u, false),
    (.andnI f, 1, x.toNat &&& (2 ^ 64 - 1 - u), false), (.shlI f, 1, x.toNat * 2 ^ n % 2 ^ 64, false),
    (.shrI f, 1, x.toNat / 2 ^ n, false), (.sraI f, 1, wrapNat 64 (x.toInt / 2 ^ n), false),
    (.rotI f, 1, (x.toNat / 2 ^ n + x.toNat * 2 ^ (64 - n)) % 2 ^ 64, false),
    (.minI f, 1, if x.toInt ≤ y then x.toNat else wrapNat 64 y, false),
    (.maxI f, 1, if x.toInt ≤ y then wrapNat 64 y else x.toNat, false),
    (.movi f, 1, wrapNat 64 y, false), (.movhi f, 1, u * 2 ^ 32 + (c.rs f.sd.toNat).toNat % 2 ^ 32, false) ]

/-- The binary32 operations of R78 with a result in s[SD]. -/
def floatR (c : Core) (f : RForm) : List (Instr × Nat × Flags) :=
  let cx := (c.rs f.sa.toNat).toNat % 2 ^ 32
  let cy := (c.rs f.sb.toNat).toNat % 2 ^ 32
  let x := shF32.decodeIeee cx
  let y := shF32.decodeIeee cy
  let d := shF32.decodeIeee ((c.rs f.sd.toNat).toNat % 2 ^ 32)
  let rz := f.fn.getLsbD 0
  let nan := x.isNan || y.isNan
  let sig : Flags := { nv := x.signalling || y.signalling }
  let signed := f.fn.getLsbD 0
  let src := c.rs f.sa.toNat
  let lo : Int := if signed then -2 ^ 63 else 0
  let hi : Int := if signed then 2 ^ 63 - 1 else 2 ^ 64 - 1
  let n : Int × Bool := match x with | .fin neg m e => roundInt (f.fn.getLsbD 1) neg m e | _ => (0, false)
  [ (.fadd f, shF32.round rz (x.add y)), (.fmul f, shF32.round rz (x.mul y)), (.ffma f, shF32.round rz (x.fma y d)),
    (.fmin f, if nan then (0x7FC00000, sig) else shF32.round false (if y.lessTotal x then y else x, false)),
    (.fmax f, if nan then (0x7FC00000, sig) else shF32.round false (if x.lessTotal y then y else x, false)),
    (.cvtif f, shF32.round (f.fn.getLsbD 1) (.fin (signed && decide (src.toInt < 0)) (if signed then src.toInt.natAbs else src.toNat) 0, false)),
    (.cvtfi f, match x with
      | .nan _ => (0, { nv := true })
      | .inf neg => (wrapNat 64 (if neg then lo else hi), { nv := true })
      | .fin _ _ _ => if n.1 < lo then (wrapNat 64 lo, { nv := true }) else if hi < n.1 then (wrapNat 64 hi, { nv := true })
          else (wrapNat 64 n.1, { nx := n.2 })) ]

/-- The offset of R80: (OFF + sext(IMM[23:0])) mod 2^24. -/
def accessOff (c : Core) (f : IForm) : Nat :=
  (((aOff (c.ra f.sa.toNat) : Int) + (f.imm.setWidth 24).toInt) % 2 ^ 24).toNat

/-! ## Vector operands -/

/-- The lanes that act (R98). -/
def acting (c : Core) (f : VForm) : List Nat :=
  (List.range 128).filter fun l => f.cm.getLsbD (l / 16) && (c.rq f.qg.toNat).getLsbD l

/-- The lanes of the enabled courses. -/
def inCourses (f : VForm) : List Nat := (List.range 128).filter fun l => f.cm.getLsbD (l / 16)

/-- The operation's result lands in the lanes `ls` of v[VD] after `lat` cc; its flags are the union over those lanes. -/
def LanesLand (i : Instr) (s : State) (f : VForm) (lat : Nat) (ls : List Nat) (g : Nat → W32 × Flags) : Prop :=
  Queues i s (vslot f.unit) lat [.v f.vd.toNat (ls.map fun l => (l, (g l).1))] (Flags.join (ls.map fun l => (g l).2))

/-- The width of a type's elements (R99). -/
def bitsOf (ty : Nat) : Nat := if ty < 3 then 32 else if ty < 6 then 16 else 8

/-- A lane computed element by element from the elements of v[VA], v[VB] and the old v[VD], with the union of the flags. -/
def elementwise (c : Core) (f : VForm) (op : Nat → Nat → Nat → Nat × Flags) (l : Nat) : W32 × Flags :=
  let w := bitsOf f.ty.toNat
  let e (r i : Nat) : Nat := (c.rv r l).toNat / 2 ^ (w * i) % 2 ^ w
  mapElems w (32 / w) fun i => op (e f.va.toNat i) (e f.vb.toNat i) (e f.vd.toNat i)

/-- An element of an integer type as an integer: signed but for n32. -/
def asInt (ty x : Nat) : Int :=
  let w := bitsOf ty
  let u := x % 2 ^ w
  if ty = 2 ∨ u < 2 ^ (w - 1) then u else (u : Int) - 2 ^ w

/-- An integer result in a type: modulo 2^32 for i32 and n32; saturated, with SAT, for i16 and i8 (R104). -/
def fitInt (ty : Nat) (r : Int) : Nat × Flags :=
  let w := bitsOf ty
  if ty < 3 then (wrapNat 32 r, {})
  else (wrapNat w (max (-2 ^ (w - 1)) (min (2 ^ (w - 1) - 1) r)), { sat := decide (r < -2 ^ (w - 1)) || decide (2 ^ (w - 1) ≤ r) })

/-- The format of a float type (R99). -/
def floatOf (ty : Nat) : Shape := if ty = 0 then shF32 else if ty = 3 then shBf16 else shF16

/-- The R forms whose guard is p[PG] (R47). -/
def guardedR : List (RForm → Instr) :=
  [.add, .sub, .mul, .mulh, .div, .rem, .and, .or, .xor, .andn, .shl, .shr, .sra, .rot, .min, .max, .clz, .popc, .sel, .cmp, .awr, .ard,
   .ainc, .fadd, .fmul, .ffma, .fmin, .fmax, .fcmp, .cvtif, .cvtfi, .hmov, .hpin, .hunpin, .hnull, .ret, .halt, .tret, .yield, .twait,
   .ttest, .sleept, .tprom, .waitl, .waitr, .ftld, .kest]

/-- The I forms whose guard is p[PG]. -/
def guardedI : List (IForm → Instr) :=
  [.addI, .subI, .mulI, .mulhI, .divI, .remI, .andI, .orI, .xorI, .andnI, .shlI, .shrI, .sraI, .rotI, .minI, .maxI, .aincI, .movi, .movhi,
   .lds, .sts, .hld, .hst, .loop, .trap, .getsr, .setsr, .ftset, .stepadv]

end Sys2Proof.Claims

open Sys2Proof Sys2Proof.Machine Sys2Proof.Claims Sys2Proof.Safety

/-! ## The S slot -/

/-- R47, R72: an S-slot operation whose guard is false has no effect. -/
def Obligations.FalseGuardHasNoEffect : Prop :=
  (∀ mk ∈ guardedR, ∀ (f : RForm) (s : State), s.core.rp f.pg.toNat = false → exec (mk f) s = .next s) ∧
  (∀ mk ∈ guardedI, ∀ (f : IForm) (s : State), s.core.rp f.pg.toNat = false → exec (mk f) s = .next s) ∧
  (∀ mk ∈ ([.br, .call] : List (BForm → Instr)), ∀ (f : BForm) (s : State), s.core.rp f.pg.toNat = f.ps → exec (mk f) s = .next s)

/-- R74, R72: the integer R forms. -/
def Obligations.IntegerRegisterFormsGiveTheirResults : Prop :=
  ∀ (f : RForm) (s : State), s.core.rp f.pg.toNat = true → ∀ row ∈ integerR s.core f,
    row.2.2.1 < 2 ^ 64 ∧
      Queues row.1 s .s row.2.1 [.s f.sd.toNat (BitVec.ofNat 64 row.2.2.1)] { dz := row.2.2.2 }

/-- R74, R77, R72: the integer I forms, MOVI and MOVHI. -/
def Obligations.IntegerImmediateFormsGiveTheirResults : Prop :=
  ∀ (f : IForm) (s : State), s.core.rp f.pg.toNat = true → ∀ row ∈ integerI s.core f,
    row.2.2.1 < 2 ^ 64 ∧
      Queues row.1 s .s row.2.1 [.s f.sd.toNat (BitVec.ofNat 64 row.2.2.1)] { dz := row.2.2.2 }

/-- R78, R72: binary32 arithmetic and conversions. That CVTFI tests the rounded integer against the range of its destination is the model's
reading of R78 and R230 (log 23). -/
def Obligations.ScalarFloatFormsGiveTheirResults : Prop :=
  ∀ (f : RForm) (s : State), s.core.rp f.pg.toNat = true → ∀ row ∈ floatR s.core f,
    Queues row.1 s .s 3 [.s f.sd.toNat (BitVec.ofNat 64 row.2.1)] row.2.2

/-- R75, R78, R90: CMP, FCMP and TTEST write one predicate, 1 cc after issue. A CMP outside the ranges of R75 is an illegal encoding, and
a result for p0 changes nothing when it lands. -/
def Obligations.ComparisonsAndTokenTestsWriteAPredicate : Prop :=
  (∀ (e : ExpandEnv) (f : RForm), 16 ≤ f.sd.toNat ∨ 5 < f.fn.toNat →
    ∃ field, decodeSlot e .s (f.bits 0x14) = .error ⟨0x08, field, .s⟩) ∧
  (∀ (c : Core) (r : Bool), c.write (.p 0 r) = c) ∧
  ∀ (f : RForm) (s : State), s.core.rp f.pg.toNat = true →
    let x := s.core.rs f.sa.toNat
    let y := s.core.rs f.sb.toNat
    let a := shF32.decodeIeee (x.toNat % 2 ^ 32)
    let b := shF32.decodeIeee (y.toNat % 2 ^ 32)
    (∀ row ∈ ([(0, x = y), (1, x ≠ y), (2, x.toInt < y.toInt), (3, y.toInt ≤ x.toInt), (4, x.toNat < y.toNat), (5, y.toNat ≤ x.toNat)]
        : List (Nat × Prop)), f.fn.toNat = row.1 →
      ∃ r : Bool, (r = true ↔ row.2) ∧ Queues (.cmp f) s .s 1 [.p f.sd.toNat r] {}) ∧
    (∀ row ∈ ([(0, a.eqv b, false), (1, !a.eqv b, false), (2, a.lt b, true), (3, a.lt b || a.eqv b, true), (4, a.isNan || b.isNan, false)]
        : List (Nat × Bool × Bool)), f.fn.toNat = row.1 →
      Queues (.fcmp f) s .s 1 [.p f.sd.toNat row.2.1]
        { nv := if row.2.2 then a.isNan || b.isNan else a.signalling || b.signalling }) ∧
    Queues (.ttest f) s .s 1 [.p f.sd.toNat (s.core.rt f.sa.toNat).done] {}

/-- R76, R84, R88, R90, R95, R97: the moves between register families, with their new values; what HMOV refuses. -/
def Obligations.RegisterMovesGiveTheirResults : Prop :=
  (∀ (f : RForm) (s : State), s.core.rp f.pg.toNat = true →
    let c := s.core
    let v := (c.ra f.sd.toNat).toNat
    Queues (.awr f) s .s 1 [.a f.sd.toNat (c.rs f.sa.toNat)] {} ∧
    Queues (.ard f) s .s 1 [.s f.sd.toNat (c.ra f.sa.toNat)] {} ∧
    Queues (.ainc f) s .s 1 [.a f.sd.toNat (BitVec.ofNat 64 (v / 2 ^ 24 * 2 ^ 24 + (v + (c.rs f.sa.toNat).toNat) % 2 ^ 24))] {} ∧
    Queues (.tprom f) s .s 1 [.s f.sd.toNat (c.rt f.sa.toNat).promise] {} ∧
    Queues (.kest f) s .s 1 [.kest (c.rs f.sa.toNat)] {} ∧
    Queues (.hnull f) s .s 1 [.h f.sd.toNat 0] {} ∧
    (f.fn.toNat = 0 → Queues (.hmov f) s .s 1 [.h f.sd.toNat (c.rh f.sa.toNat)] {}) ∧
    (f.fn.toNat = 1 → Queues (.hmov f) s .s 1 [.s f.sd.toNat (c.rh f.sa.toNat)] {}) ∧
    (f.fn.toNat = 2 → (c.rs f.sa.toNat).toNat < 2 ^ 57 → Queues (.hmov f) s .s 1 [.h f.sd.toNat (c.rs f.sa.toNat)] {}) ∧
    (let w := (c.rs f.sa.toNat).toNat
     let wide := w % 2 + w / 2 % 8 + w / 16 % 8
     w < 2 ^ 17 → 2 ≤ wide → wide ≤ 8 → w / 2 ^ 15 ≠ 3 → Queues (.ftld f) s .s 1 [.fm f.sd.toNat (BitVec.ofNat 32 w)] {})) ∧
  (∀ (f : IForm) (s : State), s.core.rp f.pg.toNat = true →
    let c := s.core
    let v := (c.ra f.sd.toNat).toNat
    Queues (.aincI f) s .s 1
      [.a f.sd.toNat (BitVec.ofNat 64 (v / 2 ^ 24 * 2 ^ 24 + (((v : Int) + f.imm.toInt) % 2 ^ 24).toNat))] {} ∧
    Queues (.loop f) s .s 1 [.lc f.sd.toNat (BitVec.ofNat 32 (((c.rs f.sa.toNat).toNat + f.imm.toNat) % 2 ^ 32))] {} ∧
    Queues (.ftset f) s .s 1 [.ftb (BitVec.ofNat 6 (f.imm.toNat % 64)), .ftsel (BitVec.ofNat 2 (f.imm.toNat / 256 % 4))] {}) ∧
  (∀ (f : RForm) (s : State) (g : Nat), Handled s g → s.core.rp f.pg.toNat = true →
    let w := (s.core.rs f.sa.toNat).toNat
    f.fn.toNat = 2 → 2 ^ 57 ≤ w → Traps (.hmov f) s g ⟨0x0C, .s, w / 16 * 16 + 1⟩) ∧
  (∀ (e : ExpandEnv) (f : RForm), 2 < f.fn.toNat → ∃ field, decodeSlot e .s (f.bits 0x54) = .error ⟨0x08, field, .s⟩)

/-- R13, R14, R17, R22, R389: what a landed result leaves in its register, and a store in the scratchpad. s0, p0 and q0 keep their
constants; an a register keeps 46 bits; a q register takes the masked bits only; a v register takes the lanes that are written and a tile
the elements, the others keep their values, and in a gated bank nothing is written and zero is read; no other register of the family
changes. A scratchpad byte in the padding, or of an empty allocation, reads zero and takes no write; the core is one bound to a kernel.
A slot reads the pool's own byte where no access is under way there (R208; the model's choice of racing bytes: log 172). -/
def Obligations.RegistersAndScratchpadReadBack : Prop :=
  (∀ (c : Core) (n m : Nat),
      (∀ x, (c.write (.s n x)).rs m = if m = 0 then 0 else if m = n then x else c.rs m) ∧
      (∀ x, (c.write (.p n x)).rp m = if m = 0 then true else if m = n then x else c.rp m) ∧
      (∀ k x, (c.write (.q n k x)).rq m =
        if m = 0 then BitVec.allOnes 128 else if m = n then (c.rq n &&& ~~~k) ||| (x &&& k) else c.rq m) ∧
      (∀ x, (c.write (.a n x)).ra m = if m = n then BitVec.ofNat 64 (x.toNat % 2 ^ 46) else c.ra m) ∧
      (∀ x, (c.write (.h n x)).rh m = if m = n then x else c.rh m) ∧
      (∀ x, (c.write (.ref n x)).rh m = if m = n then x else c.rh m) ∧
      (∀ x, (c.write (.lc n x)).rlc m = if m = n then x else c.rlc m) ∧
      (∀ x, (c.write (.fm n x)).rfm m = if m = n then x else c.rfm m) ∧
      (∀ ls : List (Nat × W32), (ls.map (·.1)).Nodup → (∀ x ∈ ls, x.1 < 128) → c.gated (n * 512) = false → ∀ i, i < 128 →
        (c.write (.v n ls)).rv m i = if m = n then (ls.lookup i).getD (c.rv n i) else c.rv m i) ∧
      (∀ ls : List (Nat × W32), (ls.map (·.1)).Nodup → (∀ x ∈ ls, x.1 < 4096) →
        c.gated (partRf c.partword * 2 ^ 18 + n * 16384) = false → ∀ i, i < 4096 →
        (c.write (.z n ls)).rz m i = if m = n then (ls.lookup i).getD (c.rz n i) else c.rz m i) ∧
      (∀ ls i, c.gated (n * 512) = true → c.write (.v n ls) = c ∧ c.rv n i = 0) ∧
      (∀ ls i, c.gated (partRf c.partword * 2 ^ 18 + n * 16384) = true → c.write (.z n ls) = c ∧ c.rz n i = 0) ∧
      (c.kernel ≠ 0 → c.gated n = false)) ∧
  (∀ (c : Core), (∀ x, c.write (.ksave x) = { c with ksave := x }) ∧ (∀ x, c.write (.kest x) = { c with kest := x }) ∧
      (∀ x, c.write (.ftb x) = { c with ftb := x }) ∧ (∀ x, c.write (.ftsel x) = { c with ftsel := x })) ∧
  (∀ (c : Core), c.kernel ≠ 0 →
      let a := (48 - partRf c.partword - partAcc c.partword - partShore c.partword - partGate c.partword) * 2 ^ 18
      ∃ p, (a = 0 ∨ (a ≤ p ∧ p < 2 * a ∧ ∃ j, p = 2 ^ j)) ∧
        ∀ off, (a = 0 ∨ a ≤ off % 2 ^ 24 % p → c.place off = none ∧ c.poolByte off = 0 ∧ ∀ b, c.poolPut (off, b) = c) ∧
          (c.racing = [] → c.slotByte off = c.poolByte off) ∧
          (0 < a → off % 2 ^ 24 % p < a →
            c.place off = some ((partRf c.partword + partAcc c.partword + partShore c.partword) * 2 ^ 18 + off % 2 ^ 24 % p) ∧
            ∀ b x, (c.poolPut (off, b)).poolByte x = if c.place x = c.place off then b else c.poolByte x))

/-! ## Pool access and references in the S slot -/

/-- R80, R81, R208: LDS reads the pool as it stood before the bundle, STS joins the bundle's stores; neither faults. A byte that an access
under way has yet to write is read old or new (the model's choice of which: log 172). -/
def Obligations.ScalarPoolAccess : Prop :=
  ∀ (f : IForm) (s : State), s.core.rp f.pg.toNat = true →
    let c := s.core
    let e := accessOff c f
    let n := 2 ^ (f.imm.toNat / 2 ^ 24 % 4)
    let x := natOf ((List.range n).map fun i => c.slotByte (e + i))
    let wide : Int := if x < 2 ^ (8 * n - 1) then x else (x : Int) - 2 ^ (8 * n)
    Queues (.lds f) s .s 3 [.s f.sd.toNat (if f.imm.getLsbD 26 then BitVec.ofInt 64 wide else BitVec.ofNat 64 x)] {} ∧
    Stores (.sts f) s ((List.range n).map fun i => (e + i, BitVec.ofNat 8 ((c.rs f.sd.toNat).toNat / 256 ^ i)))

/-- R83: HST stores a reference at an aligned offset with no barrier and no check, and traps at another. That the register it stores is
h[SD] is the model's reading (log 17): the text of R83 names h[SA]. -/
def Obligations.HstStoresOrTraps : Prop :=
  ∀ (f : IForm) (s : State), s.core.rp f.pg.toNat = true →
    let e := accessOff s.core f
    (e % 8 = 0 →
      Stores (.hst f) s ((List.range 8).map fun i => (e + i, BitVec.ofNat 8 ((s.core.rh f.sd.toNat).toNat / 256 ^ i)))) ∧
    (e % 8 ≠ 0 → ∀ g, Handled s g → Traps (.hst f) s g ⟨0x0C, .s, e * 16 + 2⟩)

/-- R82, R255, R323: HLD of a null or a current reference lands after 3 cc; another freezes the core until the lookup is over.
R85, R86: HPIN of a null reference writes 0; another freezes the core until its reply. HUNPIN takes one from PINC and clears the
hint at 0, and the header's reserved bits become zero (R322), a lease of the header's line being written back first (R255); of a null
reference it does nothing. A lookup is remembered at the
region's home bay, and what it finds is what stands in the table then (R323, R327). -/
def Obligations.YardReferencesLoadPinAndUnpin : Prop :=
  (∀ (f : IForm) (s : State), s.core.rp f.pg.toNat = true →
      let c := s.core
      let e := accessOff c f
      let r : W64 := BitVec.ofNat 64 (natOf ((List.range 8).map fun i => c.slotByte (e + i)))
      e % 8 = 0 →
        (r = 0 → Queues (.hld f) s .s 3 [.ref f.sd.toNat 0] {}) ∧
        ∀ g, r.toNat < 2 ^ 57 → s.regionAt s.myCtx (r.toNat / 16 * 16) = some g → r ≠ 0 →
          (r.toNat % 4 = g.epoch → ¬ (g.rwlo ≤ r.toNat / 16 * 16 ∧ r.toNat / 16 * 16 < g.rwhi) →
            Queues (.hld f) s .s 3 [.ref f.sd.toNat r] {}) ∧
          (¬ (r.toNat % 4 = g.epoch ∧ ¬ (g.rwlo ≤ r.toNat / 16 * 16 ∧ r.toNat / 16 * 16 < g.rwhi)) →
            let old := Sparse.get [] s.yardRecent g.home
            let wait := (if (g.key, r.toNat / 16 * 16) ∈ old then 24 else 180) + (if g.home = c.ref / 192 then 0 else 320) +
              Config.late s.fresh
            exec (.hld f) s = .next
              { s with
                core := { c with
                  run := .frozen (.yard ⟨false, f.sd.toNat, 0, e, r, g.key, s.mcyc.toNat + wait, g.resolve r⟩), frozenFor := 0 }
                fresh := s.fresh + 1
                yardRecent := Sparse.put s.yardRecent g.home
                  (((g.key, r.toNat / 16 * 16) :: old.filter fun x => x != (g.key, r.toNat / 16 * 16)).take 1024)
                agenda := insertDue s.agenda ⟨s.mcyc.toNat + wait, some c.ref, .yardLookupReply none⟩ })) ∧
  (∀ (f : RForm) (s : State), s.core.rp f.pg.toNat = true →
      let c := s.core
      let r := c.rh f.sa.toNat
      (r = 0 → Queues (.hpin f) s .s 1 [.s f.sd.toNat 0] {} ∧ exec (.hunpin f) s = .next s) ∧
      ∀ g, r ≠ 0 → r.toNat < 2 ^ 57 → s.regionAt s.myCtx (r.toNat / 16 * 16) = some g →
        (let old := Sparse.get [] s.yardRecent g.home
         let now : Prop := r.toNat % 4 = g.epoch ∧ ¬ (g.rwlo ≤ r.toNat / 16 * 16 ∧ r.toNat / 16 * 16 < g.rwhi)
         let look := (if (g.key, r.toNat / 16 * 16) ∈ old then 24 else 180) + (if g.home = c.ref / 192 then 0 else 320)
         let froze (look : Nat) (res : W64) : State :=
           let wait := look + (if g.home = c.ref / 192 then 180 else 500) + Config.late s.fresh
           { s with
             core := { c with run := .frozen (.yard ⟨true, f.sd.toNat, f.sa.toNat, 0, r, g.key, s.mcyc.toNat + wait, res⟩), frozenFor := 0 }
             fresh := s.fresh + 1
             agenda := insertDue s.agenda ⟨s.mcyc.toNat + wait, some c.ref, .yardLookupReply none⟩ }
         (now → exec (.hpin f) s = .next (froze 0 r)) ∧
         (¬ now → exec (.hpin f) s = .next { froze look (g.resolve r) with
           yardRecent := Sparse.put s.yardRecent g.home
             (((g.key, r.toNat / 16 * 16) :: old.filter fun x => x != (g.key, r.toNat / 16 * 16)).take 1024) })) ∧
        (∀ a, s.phys? s.myCtx (g.objectOf r) = some a →
          let n := (s.memByte (a + 6)).toNat
          (0 < n → ∃ t, exec (.hunpin f) s = .next t ∧ (t.memByte (a + 6)).toNat = n - 1 ∧
            t.memByte (a + 7) = s.memByte (a + 7) &&& 3 ∧ (∀ x, x ≠ a + 6 → x ≠ a + 7 → t.memByte x = s.memByte x) ∧
            t.leases = s.leases.filter (fun l => l.line != a / 256) ∧
            (∀ l n, (l, n) ∈ t.leaseBar → (l, n) ∈ s.leaseBar ∨ (l = a / 256 ∧ n = s.mcyc.toNat + 32 ∧ ∃ e ∈ s.leases, e.line = l)) ∧
            (∀ e ∈ s.leases, e.line = a / 256 → (e.line, s.mcyc.toNat + 32) ∈ t.leaseBar) ∧
            t = { s with hbm := t.hbm, leases := t.leases, leaseBar := t.leaseBar
                         core := { c with pend := c.pend ++ if n = 1 then [⟨c.clk + 1, .s, [.h f.sa.toNat (r &&& ~~~4)], {}⟩] else [] } }) ∧
          (n = 0 → ∀ h, Handled s h → Traps (.hunpin f) s h ⟨0x0C, .s, r.toNat / 16 * 16 + 4⟩)))

/-- R70, R73, R82, R84, R85, R86, R95, R96, R89: the traps of the S slot that the operands or the mode raise; that TRET's comes before
anything is released is the model's reading (log 95). -/
def Obligations.ScalarOperandTraps : Prop :=
  ∀ (s : State) (g : Nat), Handled s g →
    (∀ (f : IForm), s.core.rp f.pg.toNat = true →
      let e := accessOff s.core f
      let r := natOf ((List.range 8).map fun i => s.core.slotByte (e + i))
      (e % 8 ≠ 0 → Traps (.hld f) s g ⟨0x0C, .s, e * 16 + 2⟩) ∧
      (e % 8 = 0 → 2 ^ 57 ≤ r → Traps (.hld f) s g ⟨0x0C, .s, r / 16 * 16 + 1⟩) ∧
      (e % 8 = 0 → r ≠ 0 → r < 2 ^ 57 → s.regionAt s.myCtx (r / 16 * 16) = none → Traps (.hld f) s g ⟨0x0C, .s, r / 16 * 16 + 3⟩) ∧
      ((∀ k, s.mine = some k → k.stepo = false) → Traps (.stepadv f) s g ⟨0x0E, .s, f.imm.toNat⟩)) ∧
    (∀ (f : RForm), s.core.rp f.pg.toNat = true →
      let x := (s.core.rs f.sa.toNat).toNat
      let r := (s.core.rh f.sa.toNat).toNat
      let wide := x % 2 + x / 2 % 8 + x / 16 % 8
      (f.fn.toNat = 2 → 2 ^ 57 ≤ x → Traps (.hmov f) s g ⟨0x0C, .s, x / 16 * 16 + 1⟩) ∧
      (2 ^ 57 ≤ r → Traps (.hpin f) s g ⟨0x0C, .s, r / 16 * 16 + 1⟩ ∧ Traps (.hunpin f) s g ⟨0x0C, .s, r / 16 * 16 + 1⟩) ∧
      (r ≠ 0 → r < 2 ^ 57 → s.regionAt s.myCtx (r / 16 * 16) = none →
        Traps (.hpin f) s g ⟨0x0C, .s, r / 16 * 16 + 3⟩ ∧ Traps (.hunpin f) s g ⟨0x0C, .s, r / 16 * 16 + 3⟩) ∧
      (2 ^ 17 ≤ x ∨ wide < 2 ∨ 8 < wide ∨ x / 2 ^ 15 % 4 = 3 → Traps (.ftld f) s g ⟨2, .s, x⟩) ∧
      Traps (.tret f) s g ⟨5, .s, 0⟩)

/-! ## Control -/

/-- R67, R68, R87, R88: taken branches. A target on this side of the handler boundary becomes the next position; CALL also writes s63,
and LEND its counter. A target that is not one traps with reason 0x0C at the branching bundle. -/
def Obligations.BranchesGoToTheirTargets : Prop :=
  ∀ (s : State) (k : Kernel), s.mine = some k →
    let c := s.core
    let good (p : Position) : Prop := p.seg < k.img.segs.length ∧ (some p.seg = k.img.handler ↔ some c.pos.seg = k.img.handler)
    let bad : Trap := ⟨1, .s, 0xFF0C + c.pos.unit * 65536⟩
    (∀ (f : BForm),
      let w := f.tgt.toNat
      let p : Position := if f.tgt.getLsbD 42 then ⟨w / 2 ^ 16 % 2 ^ 26, w % 2 ^ 16⟩ else ⟨c.pos.seg, w % 2 ^ 16⟩
      let n := f.pg.toNat % 4
      let x := c.rlc n
      (good p →
        ToCore (.jmp f) s (fun c => { c with npos := some p, src := some (c.pos, false) }) ∧
        (c.rp f.pg.toNat ≠ f.ps → ToCore (.br f) s (fun c => { c with npos := some p, src := some (c.pos, false) })) ∧
        (c.rp f.pg.toNat ≠ f.ps → ToCore (.call f) s (fun c =>
          { c with npos := some p, src := some (c.pos, false), pend := c.pend ++ [⟨c.clk + 1, .s, [.s 63 s.nextPos.word], {}⟩] })) ∧
        (1 < x.toNat → ToCore (.lend f) s (fun c =>
          { c with npos := some p, src := some (c.pos, false), pend := c.pend ++ [⟨c.clk + 1, .s, [.lc n (x - 1)], {}⟩] }))) ∧
      (x.toNat ≤ 1 → Queues (.lend f) s .s 1 [.lc n 0] {}) ∧
      (¬ good p → ∀ g, Handled s g →
        Traps (.jmp f) s g bad ∧ (c.rp f.pg.toNat ≠ f.ps → Traps (.br f) s g bad ∧ Traps (.call f) s g bad) ∧
        (1 < x.toNat → Traps (.lend f) s g bad))) ∧
    (∀ (f : RForm), c.rp f.pg.toNat = true →
      let x := (c.rs f.sa.toNat).toNat
      let p : Position := ⟨x / 2 ^ 16, x % 2 ^ 16⟩
      (x < 2 ^ 42 → good p → ToCore (.ret f) s (fun c => { c with npos := some p, src := some (c.pos, true) })) ∧
      (2 ^ 42 ≤ x ∨ ¬ good p → ∀ g, Handled s g → Traps (.ret f) s g bad)) ∧
    (∀ i h, c.item = some i → k.header c.pos.seg = some h →
      s.nextPos = if i.next < h.len then ⟨c.pos.seg, i.next⟩ else match h.next with | some g => ⟨g, 0⟩ | none => ⟨c.pos.seg, h.len⟩)

/-- R89, R73, R349, R352: HALT, TRAP, TRET and YIELD. `r` is the state once the withheld effects have been released; that TRET with a
malformed KSAVE traps before anything is released is the model's reading (log 95). -/
def Obligations.HaltTrapReturnAndYield : Prop :=
  (∀ (f : RForm) (s : State), s.core.rp f.pg.toNat = true →
    (let r := s.release
     exec (.halt f) s = .next { r with core :=
       { r.core with run := .halting, queues := r.core.queues.map fun q => (q.1, q.2.filter fun e => !e.used) } }) ∧
    (∀ k, s.mine = some k → s.core.mode = true → saveMalformed s.core.ksave = false →
      let r := (s.trace 6 0 s.core.pos).release
      let w := r.core.ksave.toNat
      let t := r.core.trapPc.toNat
      exec (.tret f) s = .next { r with core :=
        { r.core with queues := r.core.queues.map fun q => (q.1, q.2.filter fun e => !e.used)
                      flags := r.core.flags.or (Flags.ofWord r.core.ksave), strict := decide (w / 2 % 2 = 1), mode := false
                      npos := some ⟨t / 2 ^ 16, t % 2 ^ 16⟩, reissue := true } }) ∧
    (∀ k, s.mine = some k →
      (k.phase = .checkpointing → s.core.mode = false → ToCore (.yield f) s fun c => { c with stopReq := true }) ∧
      (k.phase ≠ .checkpointing → exec (.yield f) s = .next s))) ∧
  (∀ (f : IForm) (s : State) (g : Nat), s.core.rp f.pg.toNat = true → Handled s g → Traps (.trap f) s g ⟨4, .s, f.imm.toNat⟩)

/-- R216, R338, R345, R348, R349, R353: taking a trap. A core that has nothing of an earlier handler on its way takes the copies of its last
brace; one whose TRET has yet to reach its target keeps what the handler left in its registers (the model's reading: log 173). In handler
mode, or in a kernel without a handler, a trap is a context fault: the kernel ends, its core stops, and the record keeps the trap, with
the last brace's position as its TRAPPC in kernel mode (the model's reading: log 26). -/
def Obligations.TrapEntryOrContextFault : Prop :=
  (∀ (s : State) (g : Nat) (tr : Trap), Handled s g → TrapTaken s (s.takeTrap tr) g tr) ∧
  (∀ (c : Core), c.left = [] → (c.reissue = false → c.settleLeft.renew = c) ∧
    (c.reissue = true → c.mode = false → c.settleLeft.renew.brace.s = c.s ∧ c.settleLeft.renew.brace.a = c.a ∧
      c.settleLeft.renew.brace.h = c.h ∧ c.settleLeft.renew.brace.pos = c.npos.getD c.pos)) ∧
  (∀ (s : State) (k : Kernel) (tr : Trap), s.mine = some k → k.ending = none → k.phase ≠ .retired → k.record = none →
      (s.core.mode = true ∨ k.img.handler = none) → s.core.ref ∈ k.cores →
      ∃ k', (s.takeTrap tr).kernel? k.seq = some k' ∧ k'.ending = some .faulted ∧
        k'.record = some ⟨if s.core.mode then 0x100 else 0x101, s.core.idx, if s.core.mode then s.core.trapPc else s.core.brace.pos.word,
          s.core.pos.word, BitVec.ofNat 8 (slotNum tr.slot), BitVec.ofNat 16 tr.cause, BitVec.ofNat 64 tr.info, s.core.ksave⟩ ∧
        ((s.takeTrap tr).coreAt s.core.ref).run = .stopped)

/-- R90, R91, R93, R73: the waits. A wait that only a withheld release could end traps at once; a wait on what has not happened puts
the core into its waiting state, with the token as it stood before the bundle (R46); one on what has happened lets it run on, or raises the status.
What keeps an operation waiting on a withheld release is followed as log 87 reads R93. -/
def Obligations.WaitsOnTokensAndHandles : Prop :=
  ∀ (f : RForm) (s : State), s.core.rp f.pg.toNat = true →
    let c := s.core
    let n := f.sa.toNat
    let t := c.rt n
    let h := c.rc n
    let on (c : Core) : Core := { c with run := c.resumeTo, resumeTo := .running, notBefore := max c.notBefore (c.clk + 1), frozenFor := 0 }
    let failed : Trap := ⟨7 + t.status, .s, n + t.va % 2 ^ 49 * 256⟩
    (c.tokenWithheld n = true → ∀ g, Handled s g → Traps (.twait f) s g ⟨7, .s, n⟩ ∧ Traps (.sleept f) s g ⟨7, .s, n⟩) ∧
    (c.tokenWithheld n = false →
      (t.done = false →
        ToCore (.twait f) s (fun c => { c with run := .waitToken n, waited := t }) ∧
        (t.promise.toNat ≤ s.mcyc.toNat → ToCore (.sleept f) s fun c => { c with run := .frozen (.token n), waited := t, frozenFor := 0 })) ∧
      (s.mcyc.toNat < t.promise.toNat → ToCore (.sleept f) s fun c => { c with run := .sleeping n, waited := t }) ∧
      (t.done = true → t.status = 0 →
        ToCore (.twait f) s on ∧ (t.promise.toNat ≤ s.mcyc.toNat → ToCore (.sleept f) s on)) ∧
      (t.done = true → t.status ≠ 0 → ∀ g, Handled s g →
        Traps (.twait f) s g failed ∧ (t.promise.toNat ≤ s.mcyc.toNat → Traps (.sleept f) s g failed))) ∧
    (c.handleWithheld n false = true → ∀ g, Handled s g → Traps (.waitl f) s g ⟨7, .s, n + 256⟩) ∧
    (c.handleWithheld n false = false →
      (h.st = .pending → ToCore (.waitl f) s fun c => { c with run := .waitLocal n }) ∧
      (h.st ≠ .pending → exec (.waitl f) s = .next s)) ∧
    (c.handleWithheld n true = true → ∀ g, Handled s g → Traps (.waitr f) s g ⟨7, .s, n + 256⟩) ∧
    (c.handleWithheld n true = false →
      (h.st = .pending ∨ h.st = .localDone → ToCore (.waitr f) s fun c => { c with run := .waitRemote n }) ∧
      (h.st = .idle → ToCore (.waitr f) s on) ∧
      (h.st = .complete → h.status = 0 → ToCore (.waitr f) s fun c => (on c).wc n { h with st := .idle }) ∧
      (h.st = .complete → h.status ≠ 0 → h.status < 256 → ∀ g, Handled s g → Traps (.waitr f) s g ⟨0xB, .s, n + h.status * 256⟩))

/-- R17, R18, R94, R96: GETSR, SETSR and STEPADV, and what a landed write of KSTATUS leaves: a flag raised since its issue is ORed in. -/
def Obligations.SystemRegistersReadAndWrite : Prop :=
  (∀ (f : IForm) (s : State), s.core.rp f.pg.toNat = true →
    let c := s.core
    let n := f.imm.toNat % 256
    let x := c.rs f.sa.toNat
    (∀ row ∈ ([(0, statusWord c.flags c.strict c.mode), (1, c.ksave), (2, c.trapPc), (3, c.trapAt), (4, BitVec.ofNat 64 c.trapSlot.toNat),
        (5, BitVec.ofNat 64 c.trapCause.toNat), (6, c.trapInfo), (8, s.mcyc), (10, c.kest), (11, BitVec.ofNat 64 c.ftb.toNat),
        (12, BitVec.ofNat 64 c.ftsel.toNat), (13, BitVec.ofNat 64 c.partword.toNat), (14, BitVec.ofNat 64 (c.ref % 192)),
        (15, BitVec.ofNat 64 (c.ref / 192)), (16, BitVec.ofNat 64 s.node.toNat), (17, BitVec.ofNat 64 c.wdog.toNat)] : List (Nat × W64)),
      n = row.1 → Queues (.getsr f) s .s 1 [.s f.sd.toNat row.2] {}) ∧
    (n = 9 → ∀ ctx, s.ctx? s.myCtx = some ctx →
      exec (.getsr f) s = .next { s with
        core := { c with pend := c.pend ++ [⟨c.clk + 1, .s, [.s f.sd.toNat (ctx.step - unseen c s.mcyc.toNat s.fresh ctx.recent)], {}⟩] }
        fresh := s.fresh + ctx.recent.length }) ∧
    (n = 0 → ToCore (.setsr f) s fun c => { c with pend := c.pend ++ [⟨c.clk + 1, .s, [.kstatus x], {}⟩], since := {} }) ∧
    (∀ row ∈ ([(1, [.ksave x]), (11, [.ftb (BitVec.ofNat 6 x.toNat)]), (12, [.ftsel (BitVec.ofNat 2 x.toNat)])]
        : List (Nat × List Dst)), n = row.1 → Queues (.setsr f) s .s 1 row.2 {}) ∧
    (n ∉ [0, 1, 11, 12] → Queues (.setsr f) s .s 1 [] {}) ∧
    (∀ k, s.mine = some k → k.stepo = true → ToCore (.stepadv f) s fun c => { c with steps := c.steps + f.imm.toNat })) ∧
  (∀ (fl : Flags) (strict mode : Bool) (i : Nat), (statusWord fl strict mode).getLsbD i =
    (i == 0 && mode || i == 1 && strict || i == 10 && fl.nv || i == 11 && fl.dz || i == 12 && fl.of || i == 13 && fl.uf ||
      i == 14 && fl.nx || i == 15 && fl.sat)) ∧
  (∀ (c : Core) (x : W64), c.write (.kstatus x) = { c with
    flags := ⟨x.getLsbD 10 || c.since.nv, x.getLsbD 11 || c.since.dz, x.getLsbD 12 || c.since.of, x.getLsbD 13 || c.since.uf,
      x.getLsbD 14 || c.since.nx, x.getLsbD 15 || c.since.sat⟩, strict := x.getLsbD 1 })

/-! ## The vector slots -/

/-- R98, R100, R101, R104, R105: vector arithmetic, VABS, VNEG and VMOVI on each acting lane, element by element. -/
def Obligations.VectorArithmeticAndSigns : Prop :=
  (∀ (f : VForm) (s : State),
      let c := s.core
      let ty := f.ty.toNat
      let sh := floatOf ty
      let nan (x y : Val) : Bool := x.isNan || y.isNan
      let sig (x y : Val) : Flags := { nv := x.signalling || y.signalling }
      (ty = 0 ∨ ty = 3 ∨ ty = 4 →
        ∀ row ∈ ([ (.vadd f, fun x y _ => sh.round false (x.add y)), (.vsub f, fun x y _ => sh.round false (x.add y.negate)),
            (.vmul f, fun x y _ => sh.round false (x.mul y)), (.vfma f, fun x y d => sh.round false (x.fma y d)),
            (.vfms f, fun x y d => sh.round false (x.fma y d.negate)),
            (.vmin f, fun x y _ => if nan x y then (sh.cnan, sig x y) else sh.round false (if y.lessTotal x then y else x, false)),
            (.vmax f, fun x y _ => if nan x y then (sh.cnan, sig x y) else sh.round false (if x.lessTotal y then y else x, false)) ]
            : List (Instr × (Val → Val → Val → Nat × Flags))),
          LanesLand row.1 s f 4 (acting c f)
            (elementwise c f fun x y d => row.2 (sh.decodeIeee x) (sh.decodeIeee y) (sh.decodeIeee d))) ∧
      (ty = 1 ∨ ty = 2 ∨ ty = 5 ∨ ty = 6 →
        ∀ row ∈ ([ (.vadd f, fun x y => x + y), (.vsub f, fun x y => x - y), (.vmul f, fun x y => x * y),
            (.vmin f, fun x y => if x ≤ y then x else y), (.vmax f, fun x y => if x ≤ y then y else x) ] : List (Instr × (Int → Int → Int))),
          LanesLand row.1 s f 2 (acting c f) (elementwise c f fun x y _ => fitInt ty (row.2 (asInt ty x) (asInt ty y))))) ∧
  (∀ (f : VForm) (s : State),
      let c := s.core
      let ty := f.ty.toNat
      let sh := floatOf ty
      let top := 2 ^ (bitsOf ty - 1)
      let v : Int := f.vb.toInt
      (ty = 0 ∨ ty = 3 ∨ ty = 4 →
        LanesLand (.vabs f) s f 4 (acting c f)
          (elementwise c f fun x _ _ => if (sh.decode x).isNan then (sh.cnan, {}) else (x % top, {})) ∧
        LanesLand (.vneg f) s f 4 (acting c f)
          (elementwise c f fun x _ _ => if (sh.decode x).isNan then (sh.cnan, {}) else ((x + top) % (2 * top), {})) ∧
        LanesLand (.vmovi f) s f 2 (acting c f) (elementwise c f fun _ _ _ => sh.encode false (.fin (decide (v < 0)) v.natAbs 0))) ∧
      (ty = 1 ∨ ty = 2 ∨ ty = 5 ∨ ty = 6 →
        LanesLand (.vabs f) s f 2 (acting c f) (elementwise c f fun x _ _ => fitInt ty (asInt ty x).natAbs) ∧
        LanesLand (.vneg f) s f 2 (acting c f) (elementwise c f fun x _ _ => fitInt ty (-asInt ty x)) ∧
        LanesLand (.vmovi f) s f 2 (acting c f) (elementwise c f fun _ _ _ => fitInt ty v)))

/-- R100, R106: logic on whole lanes; shifts and counts element by element. No flag. -/
def Obligations.VectorLogicShiftsAndCounts : Prop :=
  ∀ (f : VForm) (s : State),
    let c := s.core
    let w := bitsOf f.ty.toNat
    let a (l : Nat) : W32 := c.rv f.va.toNat l
    let b (l : Nat) : W32 := c.rv f.vb.toNat l
    (∀ row ∈ ([ (.vand f, fun l => a l &&& b l), (.vor f, fun l => a l ||| b l), (.vxor f, fun l => a l ^^^ b l),
        (.vnot f, fun l => ~~~ a l) ] : List (Instr × (Nat → W32))),
      LanesLand row.1 s f 2 (acting c f) fun l => (row.2 l, {})) ∧
    (f.ty.toNat ∈ [1, 2, 5, 6] →
      ∀ row ∈ ([ (.vshl f, fun x n => x * 2 ^ (n % w) % 2 ^ w), (.vshr f, fun x n => x / 2 ^ (n % w)),
          (.vsra f, fun x n => wrapNat w ((if x < 2 ^ (w - 1) then (x : Int) else (x : Int) - 2 ^ w) / 2 ^ (n % w))),
          (.vpopc f, fun x _ => ((List.range w).filter fun i => x.testBit i).length),
          (.vclz f, fun x _ => w - x.size) ] : List (Instr × (Nat → Nat → Nat))),
        LanesLand row.1 s f 2 (acting c f) (elementwise c f fun x y _ => (row.2 x y, {})))

/-- R98, R107, R108, R109: selects, predicate logic and compares. Bits of a q register outside the acting lanes keep their values, and
a result for q0 changes nothing. -/
def Obligations.VectorSelectsPredicatesAndCompares : Prop :=
  ∀ (f : VForm) (s : State),
    let c := s.core
    let ty := f.ty.toNat
    let a (l : Nat) : W32 := c.rv f.va.toNat l
    let b (l : Nat) : W32 := c.rv f.vb.toNat l
    let dest (i : Instr) (x : Nat → Bool) (nv : Bool) : Prop :=
      ∃ m y : BitVec 128, (∀ l, l < 128 → m.getLsbD l = (acting c f).contains l) ∧ (∀ l, m.getLsbD l = true → y.getLsbD l = x l) ∧
        Queues i s (vslot f.unit) 2 [.q f.vd.toNat m y] { nv := nv }
    let p := c.rq f.va.toNat
    let q := c.rq f.vb.toNat
    LanesLand (.vsel f) s f 2 (inCourses f) (fun l => (if (c.rq f.qg.toNat).getLsbD l then a l else b l, {})) ∧
    (∀ m y, c.write (.q 0 m y) = c) ∧
    dest (.vqand f) (fun l => p.getLsbD l && q.getLsbD l) false ∧ dest (.vqor f) (fun l => p.getLsbD l || q.getLsbD l) false ∧
    dest (.vqnot f) (fun l => !p.getLsbD l) false ∧
    let w := bitsOf ty
    let es (x : W32) : List Nat := (List.range (32 / w)).map fun i => x.toNat / 2 ^ (w * i) % 2 ^ w
    (ty = 1 ∨ ty = 2 ∨ ty = 5 ∨ ty = 6 →
      ∀ row ∈ ([ (.vcmpEq f, fun x y => x == y), (.vcmpNe f, fun x y => x != y), (.vcmpLt f, fun x y => decide (x < y)),
          (.vcmpLe f, fun x y => decide (x ≤ y)), (.vcmpGt f, fun x y => decide (y < x)), (.vcmpGe f, fun x y => decide (y ≤ x)) ]
          : List (Instr × (Int → Int → Bool))),
        dest row.1 (fun l => ((es (a l)).zip (es (b l))).all fun e => row.2 (asInt ty e.1) (asInt ty e.2)) false) ∧
    (ty = 0 ∨ ty = 3 ∨ ty = 4 →
      let dec (x : Nat) : Val := (floatOf ty).decodeIeee x
      ∀ row ∈ ([ (.vcmpEq f, fun x y => x.eqv y, false), (.vcmpNe f, fun x y => !x.eqv y, false), (.vcmpLt f, fun x y => x.lt y, true),
          (.vcmpLe f, fun x y => x.lt y || x.eqv y, true), (.vcmpGt f, fun x y => y.lt x, true),
          (.vcmpGe f, fun x y => y.lt x || x.eqv y, true) ] : List (Instr × (Val → Val → Bool) × Bool)),
        dest row.1 (fun l => ((es (a l)).zip (es (b l))).all fun e => row.2.1 (dec e.1) (dec e.2))
          ((acting c f).any fun l => ((es (a l)).zip (es (b l))).any fun e =>
            if row.2.2 then (dec e.1).isNan || (dec e.2).isNan else (dec e.1).signalling || (dec e.2).signalling))

/-- R110, R100: the functions on each acting lane, with the special cases of the rule's table; any other input takes the value that
`exp2Fin`, `log2Fin`, `rcpFin`, `rsqFin` or `sqrtFin` gives, rounded once; that the first two give the values of VEXP2 and VLOG2 is the
model's choice (log 14). NaNs are canonical, and a signalling one sets NV. -/
def Obligations.VectorFunctions : Prop :=
  ∀ (f : VForm) (s : State),
    let c := s.core
    let x (l : Nat) : Nat := (c.rv f.va.toNat l).toNat
    let bad : Nat × Flags := (0x7FC00000, { nv := true })
    let quiet (v : Nat) : Nat × Flags := (v, {})
    let byZero (v : Nat) : Nat × Flags := (v, { dz := true })
    -- NaN and infinities first, then zeros, then a sign
    let table (pinf ninf pzero nzero : Nat × Flags) (neg pos : Nat → Int → Nat × Flags) (code : Nat) : W32 × Flags :=
      let r : Nat × Flags := match shF32.decodeIeee code with
        | .nan sig => (0x7FC00000, { nv := sig })
        | .inf n => if n then ninf else pinf
        | .fin n m e => if m = 0 then (if n then nzero else pzero) else if n then neg m e else pos m e
      (BitVec.ofNat 32 r.1, r.2)
    let enc (v : Val) : Nat × Flags := shF32.encode false v
    LanesLand (.vexp2 f) s f 9 (acting c f) (fun l => table (quiet 0x7F800000) (quiet 0) (quiet 0x3F800000) (quiet 0x3F800000)
      (fun m e => enc (exp2Fin true m e)) (fun m e => enc (exp2Fin false m e)) (x l)) ∧
    LanesLand (.vlog2 f) s f 9 (acting c f) (fun l => table (quiet 0x7F800000) bad (byZero 0xFF800000) (byZero 0xFF800000)
      (fun _ _ => bad) (fun m e => enc (log2Fin m e)) (x l)) ∧
    LanesLand (.vrcp f) s f 9 (acting c f) (fun l => table (quiet 0) (quiet 0x80000000) (byZero 0x7F800000) (byZero 0xFF800000)
      (fun m e => enc (rcpFin true m e)) (fun m e => enc (rcpFin false m e)) (x l)) ∧
    LanesLand (.vrsq f) s f 9 (acting c f) (fun l => table (quiet 0) bad (byZero 0x7F800000) (byZero 0xFF800000)
      (fun _ _ => bad) (fun m e => enc (rsqFin m e)) (x l)) ∧
    LanesLand (.vsqrt f) s f 9 (acting c f) (fun l => table (quiet 0x7F800000) bad (quiet 0) (quiet 0x80000000)
      (fun _ _ => bad) (fun m e => enc (sqrtFin m e)) (x l))

/-- R110: the exact values the functions round. A reciprocal, a square root and a reciprocal square root stand between the bounds that
their last bit marks as inexact, so that one rounding of them is the correct one. -/
def Obligations.ReciprocalAndRootsAreBracketed : Prop :=
  (∀ (neg : Bool) (m : Nat) (e : Int), m ≠ 0 →
    ∃ r : Nat, ∃ k : Int, rcpFin neg m e = .fin neg r k ∧ ∃ j : Nat, k + e = -(j : Int) ∧ 2 ^ 100 ≤ r ∧
      (r % 2 = 0 → r * m = 2 ^ j) ∧ (r % 2 = 1 → (r - 1) * m < 2 ^ j ∧ 2 ^ j < (r + 1) * m)) ∧
  (∀ (m : Nat) (e : Int), m ≠ 0 →
    ∃ r : Nat, ∃ k : Int, sqrtFin m e = .fin false r k ∧ ∃ j : Nat, e - 2 * k = (j : Int) ∧ 2 ^ 64 ≤ r ∧
      (r % 2 = 0 → r ^ 2 = m * 2 ^ j) ∧ (r % 2 = 1 → (r - 1) ^ 2 < m * 2 ^ j ∧ m * 2 ^ j < (r + 1) ^ 2)) ∧
  (∀ (m : Nat) (e : Int), m ≠ 0 →
    ∃ r : Nat, ∃ k : Int, rsqFin m e = .fin false r k ∧ ∃ j : Nat, 2 * k + e = -(j : Int) ∧ 2 ^ 99 ≤ r ∧
      (r % 2 = 0 → r ^ 2 * m = 2 ^ j) ∧ (r % 2 = 1 → (r - 1) ^ 2 * m < 2 ^ j ∧ 2 ^ j < (r + 1) ^ 2 * m))

/-- R111, R112, R113, R100: conversions within a lane and within a course. That a conversion to an integer tests the rounded integer against
the range is the model's reading (log 23). -/
def Obligations.VectorConversions : Prop :=
  (∀ (f : VForm) (s : State),
    let c := s.core
    let word (n : Nat) : Shape := Shape.ofWord (c.rfm (f.vb.toNat / 2 ^ n % 16))
    let src : Side := ⟨f.ty.toNat, word 8⟩
    let dst : Side := ⟨f.vb.toNat % 8, word 4⟩
    let rz := f.vb.getLsbD 3
    let bits (d : Side) : Nat := if d.ty = 7 then (if d.sh.width ≤ 4 then 4 else 8) else bitsOf d.ty
    let es := 32 / bits src
    let ed := 32 / bits dst
    -- element m of a course of v[VA]
    let e (l m : Nat) : Nat := (c.rv f.va.toNat (l / 16 * 16 + m / es)).toNat / 2 ^ (bits src * (m % es)) % 2 ^ bits src
    (bits src = bits dst →
      LanesLand (.vcvt f) s f 4 (acting c f) fun l => mapElems (bits dst) ed fun i => convert src dst rz (e l (l % 16 * es + i))) ∧
    (∀ i ∈ ([.vpack f, .vunpk f] : List Instr), LanesLand i s f 4 (acting c f) fun l => mapElems (bits dst) ed fun i =>
      let m := l % 16 * ed + i
      if m < 16 * es then convert src dst rz (e l m) else (0, {}))) ∧
  (∀ (a b : Nat) (sh sh' : Shape) (rz : Bool) (x : Nat),
    let float (ty : Nat) : Prop := ty = 0 ∨ ty = 3 ∨ ty = 4
    let int (ty : Nat) : Prop := ty = 1 ∨ ty = 2 ∨ ty = 5 ∨ ty = 6
    let lo : Int := if b = 2 then 0 else -2 ^ (bitsOf b - 1)
    let hi : Int := if b = 2 then 2 ^ 32 - 1 else 2 ^ (bitsOf b - 1) - 1
    let toInt (v : Val) : Nat × Flags := match v with
      | .nan _ => (0, { nv := true })
      | .inf n => (wrapNat (bitsOf b) (if n then lo else hi), { nv := true })
      | .fin n m e =>
        let r := roundInt rz n m e
        if r.1 < lo then (wrapNat (bitsOf b) lo, { nv := true }) else if hi < r.1 then (wrapNat (bitsOf b) hi, { nv := true })
        else (wrapNat (bitsOf b) r.1, { nx := r.2 })
    let ofInt (n : Int) : Val := .fin (decide (n < 0)) n.natAbs 0
    let go := convert ⟨a, sh⟩ ⟨b, sh'⟩ rz x
    (float a → float b → go = (floatOf b).encode rz ((floatOf a).decodeIeee x)) ∧
    (float a → int b → go = toInt ((floatOf a).decodeIeee x)) ∧
    (int a → float b → go = (floatOf b).encode rz (ofInt (asInt a x))) ∧
    (int a → int b → go = (wrapNat (bitsOf b) (max lo (min hi (asInt a x))), { sat := decide (asInt a x < lo) || decide (hi < asInt a x) })) ∧
    (float a → b = 7 → go = sh'.encode rz ((floatOf a).decodeIeee x)) ∧
    (int a → b = 7 → go = sh'.encode rz (ofInt (asInt a x))) ∧
    (a = 7 → float b → go = (floatOf b).encode rz (sh.decode x)) ∧
    (a = 7 → int b → go = toInt (sh.decode x)))

/-- R81, R100, R114, R115, R116, R208: vector loads, stores, gathers, scatters and masks. Each byte is placed by R22; one that an access
under way has yet to write is read old or new (the model's choice of which: log 172). -/
def Obligations.VectorPoolMovement : Prop :=
  ∀ (f : VForm) (s : State),
    let c := s.core
    let off := (c.ra f.va.toNat).toNat % 2 ^ 24
    let base := (((off : Int) + 64 * f.vb.toInt) % 2 ^ 24).toNat
    let at_ (l : Nat) : Nat := (off + 4 * (c.rv f.vb.toNat l).toNat) % 2 ^ 24
    let word (a : Nat) : W32 := BitVec.ofNat 32 (natOf ((List.range 4).map fun i => c.slotByte (a + i)))
    let bytes (a l : Nat) : List (Nat × Byte) := (List.range 4).map fun i => (a + i, BitVec.ofNat 8 ((c.rv f.vd.toNat l).toNat / 256 ^ i))
    let mask := c.rq f.vd.toNat &&& c.rq f.qg.toNat
    LanesLand (.vld f) s f 5 (acting c f) (fun l => (word (base + 4 * l), {})) ∧
    LanesLand (.vldx f) s f 8 (acting c f) (fun l => (word (at_ l), {})) ∧
    Stores (.vst f) s ((acting c f).map fun l => bytes (base + 4 * l) l).flatten ∧
    Stores (.vstx f) s ((acting c f).map fun l => bytes (at_ l) l).flatten ∧
    Stores (.vstmb f) s (((List.range 8).filter fun k => f.cm.getLsbD k).map fun k =>
      [(base + 2 * k, BitVec.ofNat 8 (mask.toNat / 2 ^ (16 * k))), (base + 2 * k + 1, BitVec.ofNat 8 (mask.toNat / 2 ^ (16 * k + 8)))]).flatten ∧
    ∃ m : BitVec 128, (∀ l, l < 128 → m.getLsbD l = (acting c f).contains l) ∧
      Queues (.vldmb f) s (vslot f.unit) 5
        [.q f.vd.toNat m (BitVec.ofNat 128 (natOf ((List.range 16).map fun i => c.slotByte (base + i))))] {}

/-- R100, R118, R119, R123: moves between lanes, courses and tiles. -/
def Obligations.VectorDataMovement : Prop :=
  ∀ (f : VForm) (s : State),
    let c := s.core
    let a (l : Nat) : W32 := c.rv f.va.toNat l
    let sh := floatOf f.ty.toNat
    let w := bitsOf f.ty.toNat
    let e (l : Nat) : Nat := (a l).toNat / 2 ^ (w * (f.vb.toNat % 4)) % 2 ^ w
    let tile := f.va.toNat % 256
    let row := f.vb.toNat % 32 * 128
    LanesLand (.vbcast f) s f 2 (acting c f) (fun l => (a (l / 16 * 16 + f.vb.toNat % 16), {})) ∧
    LanesLand (.vperm f) s f 2 (acting c f) (fun l => (a (l / 16 * 16 + (c.rv f.vb.toNat l).toNat % 16), {})) ∧
    LanesLand (.vxcrs f) s f 6 (acting c f) (fun l => (a ((l / 16 + 8 - f.vb.toNat % 8) % 8 * 16 + l % 16), {})) ∧
    (f.ty.toNat = 3 ∨ f.ty.toNat = 4 →
      LanesLand (.vextr f) s f 2 (acting c f) (fun l => (BitVec.ofNat 32 (shF32.encode false (sh.decode (e l))).1, {}))) ∧
    (f.ty.toNat = 5 ∨ f.ty.toNat = 6 →
      LanesLand (.vextr f) s f 2 (acting c f) (fun l =>
        (BitVec.ofInt 32 (if f.vb.getLsbD 2 then asInt f.ty.toNat (e l) else (e l : Int)), {}))) ∧
    LanesLand (.vzrd f) s f 5 (acting c f) (fun l => (c.rz tile (row + l), {})) ∧
    Queues (.vzwr f) s (vslot f.unit) 3 [.z tile ((acting c f).map fun l => (row + l, c.rv f.vd.toNat l))] {}

/-- R100, R120: reductions. The four levels of the tree over the 16 contributions of a course, the identity where the guard bit is 0. -/
def Obligations.VectorReductions : Prop :=
  ∀ (f : VForm) (s : State),
    let c := s.core
    let ty := f.ty.toNat
    let dec (x : Nat) : Val := shF32.decodeIeee x
    let nan (x y : Nat) : Bool := (dec x).isNan || (dec y).isNan
    let sig (x y : Nat) : Flags := { nv := (dec x).signalling || (dec y).signalling }
    let add (x y : Nat) : Nat × Flags := if ty = 0 then shF32.round false ((dec x).add (dec y)) else ((x + y) % 2 ^ 32, {})
    let pick (big : Bool) (x y : Nat) : Nat × Flags :=
      if ty = 0 then (if nan x y then (0x7FC00000, sig x y)
        else shF32.round false (if (if big then (dec x).lessTotal (dec y) else (dec y).lessTotal (dec x)) then dec y else dec x, false))
      else if decide (asInt ty x ≤ asInt ty y) == big then (y, {}) else (x, {})
    let node (op : Nat → Nat → Nat × Flags) (x y : Nat × Flags) : Nat × Flags := ((op x.1 y.1).1, (x.2.or y.2).or (op x.1 y.1).2)
    let tree (op : Nat → Nat → Nat × Flags) (x : Nat → Nat × Flags) : Nat × Flags :=
      let l1 (i : Nat) : Nat × Flags := node op (x (2 * i)) (x (2 * i + 1))
      let l2 (i : Nat) : Nat × Flags := node op (l1 (2 * i)) (l1 (2 * i + 1))
      let l3 (i : Nat) : Nat × Flags := node op (l2 (2 * i)) (l2 (2 * i + 1))
      node op (l3 0) (l3 1)
    let reduced (op : Nat → Nat → Nat × Flags) (identity : Nat) (l : Nat) : W32 × Flags :=
      let k := l / 16 * 16
      let r := tree op fun j => (if (c.rq f.qg.toNat).getLsbD (k + j) then (c.rv f.va.toNat (k + j)).toNat else identity, {})
      (BitVec.ofNat 32 r.1, r.2)
    ty < 3 →
      LanesLand (.vradd f) s f 8 (inCourses f) (reduced add (if ty = 0 then 0x80000000 else 0)) ∧
      LanesLand (.vrmax f) s f 4 (inCourses f) (reduced (pick true) (if ty = 0 then 0xFF800000 else if ty = 1 then 0x80000000 else 0)) ∧
      LanesLand (.vrmin f) s f 4 (inCourses f)
        (reduced (pick false) (if ty = 0 then 0x7F800000 else if ty = 1 then 0x7FFFFFFF else 0xFFFFFFFF))

/-- R121, R122, R305, R306: the weathering operations, under the STEP and the rates that the core's context gives. -/
def Obligations.VectorWeathering : Prop :=
  ∀ (f : VForm) (s : State) (x : Context), s.ctx? s.myCtx = some x →
    let c := s.core
    let step := (x.step - unseen c s.mcyc.toNat s.fresh x.recent).toNat
    let raw (h : W32) : Nat := (step + 2 ^ 24 - h.toNat % 2 ^ 24) % 2 ^ 24
    let age (h : W32) : Nat := if raw h < 2 ^ 23 then raw h else 0
    let rate := f.vb.toNat % 32
    let seen : State := { s with fresh := s.fresh + x.recent.length }
    let counted (n : Nat) : State := seen.countLines s.myCtx (c.ref / 192) n 0
    let land (t : State) (lat : Nat) (ls : List (Nat × W32)) (fl : Flags) : Host.Outcome State Fault Refusal :=
      .next { t with core := { c with pend := c.pend ++ [⟨c.clk + lat, vslot f.unit, [.v f.vd.toNat ls], fl⟩] } }
    let bf (r : Nat × Flags) : Nat × Flags := shBf16.round false (shF32.decodeIeee r.1, false)
    exec (.vwstmp f) s = land seen 2 ((acting c f).map fun l => (l, BitVec.ofNat 32 (step % 2 ^ 24))) {} ∧
    (f.ty.toNat = 0 ∨ f.ty.toNat = 3 →
      let one (l : Nat) : W32 × Flags :=
        let r := x.factor (age (c.rv f.va.toNat l)) rate
        if f.ty.toNat = 0 then (BitVec.ofNat 32 r.1, r.2) else (BitVec.ofNat 32 ((bf r).1 + 2 ^ 16 * (bf r).1), r.2.or (bf r).2)
      exec (.vwfac f) s = land (counted ((acting c f).filter fun l => decide (2 ^ 23 ≤ raw (c.rv f.va.toNat l))).length) 9
        ((acting c f).map fun l => (l, (one l).1)) (Flags.join ((acting c f).map fun l => (one l).2))) ∧
    (f.ty.toNat = 0 ∨ f.ty.toNat = 3 →
      let pairs := (List.range 4).filter fun j => f.cm.getLsbD (2 * j)
      let hd (j : Nat) : W32 := c.rv f.vd.toNat (32 * j)
      let ha (j : Nat) : W32 := c.rv f.va.toNat (32 * j)
      let fac (h : W32) : Nat × Flags := if h.getLsbD 31 then (0x3F800000, {}) else x.factor (age h) rate
      let ahead (h : W32) : Nat := if 2 ^ 23 ≤ raw h ∧ h.getLsbD 31 = false then 1 else 0
      -- value e of a lane as f32, and its merge, each step rounded
      let v (h w : W32) (e : Nat) : Nat := if h.getLsbD 31 then 0 else if f.ty.toNat = 0 then w.toNat else w.toNat / 2 ^ (16 * e) % 2 ^ 16 * 2 ^ 16
      let merge (j : Nat) (p q : Nat) : Nat × Flags :=
        let y := mulF32 p (fac (hd j)).1
        let z := mulF32 q (fac (ha j)).1
        let m := addF32 y.1 z.1
        let fl := (y.2.or z.2).or m.2
        if f.ty.toNat = 0 then (m.1, fl) else ((bf m).1, fl.or (bf m).2)
      let lane (j i : Nat) : W32 × Flags :=
        mapElems (if f.ty.toNat = 0 then 32 else 16) (if f.ty.toNat = 0 then 1 else 2) fun e =>
          merge j (v (hd j) (c.rv f.vd.toNat (32 * j + i)) e) (v (ha j) (c.rv f.va.toNat (32 * j + i)) e)
      let header : W32 := BitVec.ofNat 32 ((if f.ty.toNat = 0 then 0 else 2 ^ 29) + rate * 2 ^ 24 + step % 2 ^ 24)
      exec (.vwmrg f) s = land (counted ((pairs.map fun j => ahead (hd j) + ahead (ha j)).sum)) 12
        (pairs.flatMap fun j => (32 * j, header) :: (List.range 31).map fun i => (32 * j + i + 1, (lane j (i + 1)).1))
        (Flags.join (pairs.map fun j => ((fac (hd j)).2.or (fac (ha j)).2).or (Flags.join ((List.range 31).map fun i => (lane j (i + 1)).2)))))

/-! ## Engines -/

/-- R90, R129, R132, R133, R134, R138: an M-slot operation enters its queue with what it names read at issue, and its token is named;
a format-table row or CSR descriptor that breaks a check traps with the lowest offending position. -/
def Obligations.MatrixOperationsEnterTheirQueue : Prop :=
  ∀ (f : MForm) (s : State), ∀ row ∈ ([(.mma f, .mma), (.mmai f, .mmai), (.mmas f, .mmas), (.mgath f, .mgath), (.mzero f, .mzero),
      (.mzld f, .mzld), (.mzst f, .mzst), (.mtrn f, .mtrn)] : List (Instr × MKind)),
    let c := s.core
    let r : W64 := match s.mine with
      | some k => k.img.rows.getD ((c.ftb.toNat + (c.rlc c.ftsel.toNat).toNat) % 64) 0
      | none => 0
    let checks := rowChecks row.2 r (c.rfm (rowAfm r)) (c.rfm (rowBfm r))
    let d := csrDesc c row.2 f
    let chained : Bool := match c.mq.getLast? with
      | some p => p.id == c.mLast && row.2.isMma && p.kind.isMma && p.z == f.zd.toNat
      | none => false
    ((∀ x ∈ checks, x.2 = false) → csrReserved d = none →
      ∃ o : MOp, o.id = c.nextOp ∧ o.kind = row.2 ∧ o.z = f.zd.toNat ∧ o.aOff = (c.ra f.aa.toNat).toNat ∧ o.bOff = (c.ra f.ab.toNat).toNat ∧
        (row.2 ≠ .mzero → o.row = r) ∧ o.shapeA = c.rfm (rowAfm r) ∧ o.shapeB = c.rfm (rowBfm r) ∧ o.shapeO = c.rfm (rowOfm r) ∧
        o.desc = d ∧ o.tok = f.tO.toNat ∧ o.waits = c.waitsOf f.tO [f.t1, f.t2, f.t3] ∧ o.chained = chained ∧ o.started = false ∧
        ToCore row.1 s fun c => { c.nameToken s.mcyc.toNat f.tO.toNat c.nextOp with mq := c.mq ++ [o], nextOp := c.nextOp + 1, mLast := c.nextOp }) ∧
    (∀ p b, (p, b) ∈ checks → b = true → (∀ x ∈ checks, x.2 = true → p ≤ x.1) → ∀ g, Handled s g →
      Traps row.1 s g ⟨2, .m, (c.ftb.toNat + (c.rlc c.ftsel.toNat).toNat) % 64 ||| p <<< 8⟩) ∧
    (∀ p, (∀ x ∈ checks, x.2 = false) → csrReserved d = some p → ∀ g, Handled s g →
      Traps row.1 s g ⟨2, .m, 0x3F ||| (p % 64) <<< 8 ||| (p / 64) <<< 14⟩)

/-- R90, R91, R397: what naming a token or a handle does to it, and that it does nothing to any other. -/
def Obligations.NamingClearsTokenOrHandle : Prop :=
  ∀ (c : Core) (now n id m : Nat),
    (let d := c.nameToken now n id
     (m ≠ n → d.rt m = c.rt m) ∧ (d.rt n).done = false ∧ (d.rt n).status = 0 ∧ (d.rt n).promise = (c.rt n).promise ∧ (d.rt n).owner = id ∧
      d.unaw = c.unaw + (if (c.rt n).done && (c.rt n).status != 0 && !(c.rt n).awaited then 1 else 0) ∧
      d = { c with tok := d.tok, unaw := d.unaw, firstErr := d.firstErr }) ∧
    (let d := c.nameHandle now n id
     (m ≠ n → d.rc m = c.rc m) ∧ d.rc n = ⟨.pending, 0, id, false⟩ ∧
      d.unaw = c.unaw + (if (c.rc n).st == .complete && (c.rc n).status != 0 && !(c.rc n).awaited then 1 else 0) ∧
      d = { c with hnd := d.hnd, unaw := d.unaw, firstErr := d.firstErr })

/-- R132, R134, R135: a matrix operation starts with its promise set from its occupancy and result latency. R133, R137: its result
lands with its flags, its token done, and itself gone from the queue. That its operands are read at its start is the model's reading
(log 29), and so is what the shore log keeps of a write issued before the last brace (log 128). -/
def Obligations.MatrixOperationsStartAndLand : Prop :=
  ∀ (s : State) (o : MOp),
    let c := s.core
    let v := c.engineView
    let mma := 4 * contWidth (rowAty o.row) o.shapeA
    let e := (csrCount v o.desc (rowK o.row) + 15) / 16
    let time : Nat × Nat := match o.kind with
      | .mma => (mma, 12) | .mmai => (mma, 12) | .mmas => (4 + e + mma, 12) | .mgath => (36 + e, 4) | .mzero => (1, 2)
      | .mzld => (64, 12) | .mzst => (64, 4) | .mtrn => (2 * contWidth (rowAty o.row) o.shapeA, 4)
    let r := mResult v o
    (c.canStart = some o → ToCore .mOpStart s fun c =>
      ({ c with
        mFree := c.clk + time.1
        mq := c.mq.map fun (p : MOp) => if p.id = o.id then
          { o with started := true, occEnd := c.clk + time.1, land := c.clk + time.1 + time.2, zOut := r.1, pOut := r.2.1, flags := r.2.2 }
          else p } : Core).promise o.id (BitVec.ofNat 64 (s.mcyc.toNat + time.1 + time.2))) ∧
    (c.canLand = some o → o.zOut ≠ [] → o.kind.writesPool = false → o.pOut = [] → c.run = .running → ToCore .mResultLand s fun c =>
      ((({ c with mq := c.mq.filter fun (p : MOp) => p.id != o.id }).wz o.z o.zOut).raise o.flags).tokenDone o.id 0 0) ∧
    (c.canLand = some o → o.zOut = [] → o.kind.writesPool = true → c.run = .running → ToCore .mResultLand s fun c =>
      ((({ c with mq := c.mq.filter fun (p : MOp) => p.id != o.id
                  freed := (c.freed.filter fun (x : Nat × List Nat) => x.1 == c.clk) ++ [(c.clk, o.banks)] }).poolWrite o.pOut).raise o.flags).tokenDone o.id 0 0)

/-- A list of pool writes lays `m` × `n` elements of `w` bits, in the order of the first index and then the second: element (i, k) stands
from nibble `pos i k` of the pool on, and where elements overlap the later one stands (the model's choice: log 126). Every other nibble
of the pool keeps its value. -/
def LaysElements (c : Core) (out : List (Nat × Byte)) (m n w : Nat) (pos val : Nat → Nat → Nat) : Prop :=
  let nibble (d : Core) (p : Nat) : Nat := (d.poolByte (p / 2)).toNat / 16 ^ (p % 2) % 16
  let at_ (i k h : Nat) : Nat := (pos i k + h) % 2 ^ 25
  let after := c.poolWriteRemote out
  (∀ i < m, ∀ k < n, ∀ h < w / 4,
    (∀ i' < m, ∀ k' < n, ∀ h' < w / 4, i < i' ∨ (i = i' ∧ k < k') → at_ i' k' h' ≠ at_ i k h) →
      nibble after (at_ i k h) = val i k / 16 ^ h % 16) ∧
  (∀ p < 2 ^ 25, (∀ i < m, ∀ k < n, ∀ h < w / 4, at_ i k h ≠ p) → nibble after p = nibble c p)

/-- R136, R137, R139 to R144: what the matrix operations compute. MMA, MMAI and MMAS leave at (i, j) the sum over groups of 16, each
group's exact sum scaled, added and rounded once, and MMAI clears every other element; a NaN operand or scale gives the canonical NaN; the
flags are those of every rounding and every invalid product or sum. The order in which the invalid cases of one group meet is the
model's choice (log 122). MGATH lays the gathered slice out, MZST the tile converted, MTRN the transposed block. -/
def Obligations.MatrixResults : Prop :=
  ∀ (c : Core) (o : MOp),
    let r := o.row
    let at_ (l : List (Nat × W32)) (i j : Nat) (d : W32) : W32 := l.foldl (fun v e => if e.1 = 64 * i + j then e.2 else v) d
    let off (n : Nat) : Nat := n % 2 ^ 24
    let w := contWidth (rowAty r) o.shapeA
    let wb := contWidth (rowBty r) o.shapeB
    let wo := contWidth (rowOty r) o.shapeO
    let pa := pitchOf (rowPa r) (8 * w)
    let pb := pitchOf (rowPb r) (8 * w)
    let d := o.desc.toNat
    -- the code that the gather unit finds at (k, j) of the slice: that of the last entry of row k whose column is CBASE + j
    let gathered (w k j : Nat) : Nat :=
      let lo := c.poolNat (d % 2 ^ 24 + 4 * k) 4
      (List.range (min (c.poolNat (d % 2 ^ 24 + 4 * (k + 1)) 4 - lo) 4096)).foldl (fun v n =>
        let x := (lo + n) % 2 ^ 32
        if c.poolNat ((d / 2 ^ 32 % 2 ^ 24 + 2 * x) % 2 ^ 24) 2 = d / 2 ^ 96 % 2 ^ 16 + j then c.container (d / 2 ^ 64 % 2 ^ 24) w x else v) 0
    let sparse : Prop := o.kind = .mmas
    let one : Val := .fin false 1 0
    let a (i k : Nat) : Val := matVal (rowAty r) o.shapeA (c.container (off o.aOff + i * pa) w k)
    let b (j k : Nat) : Val := matVal (rowBty r) o.shapeB (if sparse then gathered w k j else c.container (off o.bOff + j * pb) w k)
    let sa (i : Nat) : Val := if rowAsc r then scaleVal (c.poolNat (off o.aOff + 64 * pa + 2 * i) 2) else one
    let sb (j : Nat) : Val :=
      if rowBsc r then scaleVal (c.poolNat (if sparse then d / 2 ^ 128 % 2 ^ 24 + 2 * j else off o.bOff + 64 * pb + 2 * j) 2) else one
    -- the group of up to 16 products that begins at k: the rounded accumulator and the flags
    let group (i j acc k : Nat) : Nat × Flags :=
      let s := (List.range (min 16 (rowK r - k))).foldl (fun (t : Val × Bool) n =>
        let p := (a i (k + n)).mul (b j (k + n))
        ((t.1.add p.1).1, t.2 || p.2 || (t.1.add p.1).2)) (.fin true 0 0, false)
      let x := s.1.mul (sa i)
      let y := x.1.mul (sb j)
      let z := (shF32.decodeIeee acc).add y.1
      ((shF32.encode false z.1).1, (shF32.encode false z.1).2.or { nv := s.2 || x.2 || y.2 || z.2 })
    let sum (i j acc : Nat) : Nat × Flags := (List.range ((rowK r + 15) / 16)).foldl (fun t g =>
      let x := group i j t.1 (16 * g)
      (x.1, t.2.or x.2)) (acc, {})
    let start (i j : Nat) : Nat := if o.kind = .mmai then 0 else (c.rz o.z (64 * i + j)).toNat
    let m := mResult c o
    (∀ i j, i < 64 → j < 64 → rowM r ≤ 64 → rowN r ≤ 64 →
      let inside : Prop := i < rowM r ∧ j < rowN r
      let old := c.rz o.z (64 * i + j)
      (o.kind = .mma ∨ o.kind = .mmas →
        (inside → at_ m.1 i j old = BitVec.ofNat 32 (sum i j old.toNat).1) ∧ (¬ inside → at_ m.1 i j old = old)) ∧
      (o.kind = .mmai →
        (inside → at_ m.1 i j old = BitVec.ofNat 32 (sum i j 0).1) ∧ (¬ inside → at_ m.1 i j old = 0)) ∧
      (o.kind.isMma = true → inside → 0 < rowK r →
        ((∃ k < rowK r, (a i k).isNan = true ∨ (b j k).isNan = true) ∨ (sa i).isNan = true ∨ (sb j).isNan = true) →
          at_ m.1 i j old = 0x7FC00000) ∧
      (o.kind = .mzero → at_ m.1 i j old = 0) ∧
      (o.kind = .mzld →
        (inside → at_ m.1 i j old =
          BitVec.ofNat 32 (c.poolNat (off o.aOff + i * pitchOf (rowPa r) 256 + 4 * j) 4)) ∧
        (¬ inside → at_ m.1 i j old = 0))) ∧
    (o.kind.isMma = true → m.2.1 = [] ∧ m.2.2 = Flags.join (((List.range (rowM r)).map fun i => (List.range (rowN r)).map fun j =>
      (sum i j (start i j)).2).flatten)) ∧
    (o.kind = .mzero ∨ o.kind = .mzld → m.2 = ([], {})) ∧
    (o.kind = .mgath → m.1 = [] ∧ m.2.2 = {} ∧
      LaysElements c m.2.1 (rowN r) (rowK r) wb (fun j k => 2 * (off o.bOff + j * pitchOf (rowPb r) (8 * wb)) + k * (wb / 4))
        fun j k => gathered wb k j) ∧
    (o.kind = .mzst →
      let conv (i j : Nat) : Nat × Flags :=
        let x := (c.rz o.z (64 * i + j)).toNat
        if rowOty r = 0 then (x, {}) else convert ⟨0, shF32⟩ ⟨rowOty r, Shape.ofWord o.shapeO⟩ (rowOrz r) x
      m.1 = [] ∧
      m.2.2 = Flags.join (((List.range (rowM r)).map fun i => (List.range (rowN r)).map fun j => (conv i j).2).flatten) ∧
      LaysElements c m.2.1 (rowM r) (rowN r) wo (fun i j => 2 * (off o.aOff + i * pitchOf (rowPa r) (8 * wo)) + j * (wo / 4))
        fun i j => (conv i j).1) ∧
    (o.kind = .mtrn → m.1 = [] ∧ m.2.2 = {} ∧
      LaysElements c m.2.1 (rowM r) (rowK r) w (fun i k => 2 * (off o.bOff + k * pb) + i * (w / 4))
        fun i k => c.container (off o.aOff + i * pa) w k)

/-- R90, R91, R147, R174: a C-slot operation enters its engine's queue with its registers, descriptor and STEP read at issue; its token
is named, and so is the handle its descriptor names, but for a CTRIG's (R188). Nothing else of the state changes, but that a read of
STEP takes one free choice. -/
def Obligations.CopyOperationsEnterTheirQueue : Prop :=
  ∀ (f : CForm) (s : State), ∀ row ∈ ([ (.cpget f, 0x01), (.cpput f, 0x02), (.cpstr f, 0x03), (.cptile f, 0x04), (.cppair f, 0x05),
      (.cpbay f, 0x06), (.cpfill f, 0x07), (.nmcmd f, 0x20), (.cpwget f, 0x21), (.cpwput f, 0x22), (.cpwacc f, 0x23), (.hget f, 0x30),
      (.hput f, 0x31), (.hacc f, 0x32), (.wcreate f, 0x40), (.wfree f, 0x41), (.wget f, 0x42), (.wput f, 0x43), (.wacc f, 0x44),
      (.wfence f, 0x45), (.wpost f, 0x46), (.wstart f, 0x47), (.wcmpl f, 0x48), (.wwait f, 0x49), (.wlock f, 0x4A), (.wunlk f, 0x4B),
      (.wfaa f, 0x60), (.wcas f, 0x61), (.wswap f, 0x62), (.cntinc f, 0x63), (.cntrd f, 0x64), (.ctrig f, 0x65), (.ctdis f, 0x66),
      (.barinit f, 0x70), (.bararr f, 0x71), (.barwait f, 0x72), (.bayadd f, 0x73), (.baycas f, 0x74), (.fence f, 0x78),
      (.scfence f, 0x79), (.coll f, 0x80), (.collq f, 0x81) ] : List (Instr × Nat)),
    let c := s.core
    let opc := row.2
    let n := (c.descOf opc f).toNat
    let named (c : Core) : Core := c.nameToken s.mcyc.toNat f.tO.toNat c.nextOp
    (cTrap opc f s = none →
      ∃ (o : COp) (t : State), exec row.1 s = .next t ∧
        o.id = c.nextOp ∧ o.opc = opc ∧ o.f = f ∧ o.x = c.rs f.sx.toNat ∧ o.y = c.rs f.sy.toNat ∧ o.area = c.ra f.ap.toNat ∧
        o.desc = c.descOf opc f ∧ o.waits = c.waitsOf f.tO [f.t1, f.t2, f.t3] ∧ o.stage = .queued ∧ o.promise = none ∧
        o.outward = isOutward opc n ∧ o.released = false ∧ o.drained = false ∧
        (o.hnd = match handleOf opc n (c.desc2Of opc (c.descOf opc f)).toNat with | some h => some h | none => none) ∧
        t.core = { (match o.hnd with
          | some h => if opc = 0x65 then named c else (named c).nameHandle s.mcyc.toNat h c.nextOp
          | none => named c) with ops := c.ops ++ [o], nextOp := c.nextOp + 1 } ∧
        t = { s with core := t.core, fresh := t.fresh } ∧ (readsStep opc n = false → t.fresh = s.fresh)) ∧
    (∀ tr, cTrap opc f s = some tr → ∀ g, Handled s g → Traps row.1 s g tr) ∧
    (opc ∈ [0x01, 0x02, 0x07, 0x21, 0x22, 0x23, 0x30, 0x31, 0x32, 0x41, 0x63, 0x64, 0x66, 0x70, 0x71, 0x72, 0x78, 0x79, 0x81] →
      cTrap opc f s = none) ∧
    (opc ∈ [0x03, 0x04, 0x05, 0x06, 0x20, 0x42, 0x43, 0x44, 0x60, 0x61, 0x62] →
      (cTrap opc f s = none ↔ ∀ x ∈ descChecks opc n, x.2 = false) ∧
      (∀ p, (p, true) ∈ descChecks opc n → (∀ q, (q, true) ∈ descChecks opc n → p ≤ q) →
        cTrap opc f s = some ⟨2, cslot f.unit, 0x3F ||| (p % 64) <<< 8 ||| (p / 64) <<< 14⟩))

/-- R194, R195, R257: SEND puts one entry on its way to the circuit's other end, in this module or in another; it is executed once. R193, R194, R213: a receive consumes the oldest entry, or
freezes the core, or with STRICT traps. What a circuit between modules takes is free (log 147). -/
def Obligations.SendAndReceive : Prop :=
  ∀ (f : KForm) (s : State),
    let c := s.core
    let ch := f.ch.toNat
    let acts (l : Nat) : Bool := f.cm.getLsbD (l / 16) && (c.rq f.qg.toNat).getLsbD l
    (∀ k p, s.mine = some k → k.outgoing c.idx ch = some p → (c.mode = true ∨ c.brace.sent = false) →
      let start := match (c.lastSend.find? fun x => x.1 == ch) with
        | some x => max s.mcyc.toNat (x.2 + p.interval)
        | none => s.mcyc.toNat
      ∃ present : BitVec 128, (∀ l, l < 128 → present.getLsbD l = acts l) ∧
        let entry (core : Nat) : Instr := .circuitEntryArrival ⟨core, ch, present, (List.range 128).map fun l => c.rv f.vr.toNat l⟩
        let after : State := { s with
          core := { c with lastSend := (c.lastSend.filter fun x => x.1 != ch) ++ [(ch, start)]
                           brace := if c.mode then c.brace else { c.brace with sent := true } } }
        (∀ r, (k.cores.find? fun r => (s.coreAt r).idx == p.dst) = some r → exec (.send f) s = .next { after with
          agenda := insertDue s.agenda ⟨s.mcyc.toNat + (start - s.mcyc.toNat + p.lat), none, entry r⟩ }) ∧
        ((∀ r ∈ k.cores, (s.coreAt r).idx ≠ p.dst) → exec (.send f) s = .next { after with outbox := s.outbox ++ [entry p.dst] })) ∧
    (c.mode = false → c.brace.sent = true → exec (.send f) s = .next s) ∧
    ∀ row ∈ ([ (.recv f, 2, fun _ x => (x, {})),
        (.recvadd f, 4, fun v x => shF32.round false ((shF32.decodeIeee v).add (shF32.decodeIeee x))),
        (.recvmax f, 4, fun v x => shF32.round false ((shF32.decodeIeee v).max2 (shF32.decodeIeee x))) ]
        : List (Instr × Nat × (Nat → Nat → Nat × Flags))),
      (∀ e, c.entry ch = some e →
        let ls := (List.range 128).filter fun l => acts l && e.present.getLsbD l
        let r (l : Nat) : Nat × Flags := row.2.2 (c.rv f.vr.toNat l).toNat (e.lanes.getD l 0).toNat
        ToCore row.1 s fun c => { c with
          queues := c.queues.map fun q => if q.1 = ch then (ch, markUsed q.2) else q
          pend := c.pend ++ [⟨c.clk + row.2.1, .k, [.v f.vr.toNat (ls.map fun l => (l, BitVec.ofNat 32 (r l).1))],
            Flags.join (ls.map fun l => (r l).2)⟩] }) ∧
      (c.entry ch = none →
        (c.strict = false → ToCore row.1 s fun c => { c with run := .frozen (.receive row.1), frozenFor := 0 }) ∧
        (c.strict = true → ∀ g, Handled s g → Traps row.1 s g ⟨3, .k, ch⟩))

/-- R46, R72, R100, R101, R218, R231, R337, R338: NOP does nothing; TMARK records lc0; BRACE releases what is withheld, frees the
consumed entries and, in kernel mode, takes the copies and starts a fresh log (`r` is the state once the withheld effects have been
released). Results that are due are written in the order of issue, their flags ORed into KSTATUS, and no other result is written. -/
def Obligations.MarkersBracesAndDueResults : Prop :=
  (∀ (s : State),
      (∀ sl, exec (.nop sl) s = .next s) ∧
      (∀ k, s.mine = some k →
        let w := k.trace.toNat
        let rec1 : BitVec 128 := BitVec.ofNat 128 (s.mcyc.toNat <<< 64 ||| 1 <<< 58 ||| ((s.core.rlc 0).toNat % 65536) <<< 42 |||
          (s.core.pos.seg % 2 ^ 26) <<< 16 ||| s.core.pos.unit % 65536)
        w % 2 = 1 → w / 256 % 2 = 0 → s.core.trace.left = none → s.core.trace.records.length < 4096 →
          ToCore .tmark s fun c => { c with trace := { c.trace with records := c.trace.records ++ [rec1] } }) ∧
      (let r := s.releaseOps
       let c : Core := { r.core with braced := true, queues := r.core.queues.map fun q => (q.1, q.2.filter fun e => !e.used) }
       exec .brace s = .next (State.settle { r with core :=
         if c.mode then c else
           { c with interval := c.interval + 1, reissue := false
                    log := c.log.filter fun e => match e with
                      | .staged _ id _ _ _ => c.ops.any fun o => o.id == id && o.logged && !o.drained
                      | _ => false
                    brace := { s := c.s, p := c.p, q := c.q, a := c.a, h := c.h, lc := c.lc, fm := c.fm, tok := c.tok, hnd := c.hnd
                               unaw := c.unaw, firstErr := c.firstErr
                               strict := c.strict, kest := c.kest, ftb := c.ftb, ftsel := c.ftsel, pos := c.pos
                               sent := c.reissue && c.brace.sent, firstOp := c.nextOp, mLast := c.mLast } } }))) ∧
  (∀ (s : State),
      let c := s.core
      let land (sel : Slot → Bool) : Core :=
        let now (p : Pending) : Bool := sel p.slot && decide (p.due ≤ c.clk)
        let raise (d : Core) (f : Flags) : Core := { d with flags := d.flags.or f, since := d.since.or f }
        -- first what a handler has left on its way, which no rollback undoes (R338), then the others
        let kept := (c.left.filter now).foldl (fun c p => raise (p.dst.foldl Core.writeKept c) p.flags)
          { c with left := c.left.filter fun p => !now p, pend := c.pend.filter fun p => !now p }
        (c.pend.filter now).foldl (fun c p => raise (p.dst.foldl Core.write c) p.flags) kept
      exec .sResultLand s = .next { s with core := land fun sl => sl == .s } ∧
      (exec .vResultLand s = .next (State.settle { s with core := land fun sl => sl == .va || sl == .vb || sl == .k })) ∧
      (∀ t : State, t.core.logFull = false → t.settle = t))

/-! ## Events of a core -/

/-- R67, R69, R70, R211: the traps the sequencer and the watchdog raise; R65, R215, R388: what the expander does in a cc; R90: a sleep that is
over; R24, R89: the end of a HALT. That a reload takes the 32 cc of a segment request is the model's choice (log 86), and so are which of several pages a missed
promise reports (log 115) and that a literal stands ready in the first of its 2 cc (log 157). -/
def Obligations.SequencerEvents : Prop :=
  ∀ (s : State) (k : Kernel), s.mine = some k →
    let c := s.core
    (∀ r g, Handled s g → Traps (.illegalEncoding r) s g ⟨1, r.slot, r.reason ||| r.field <<< 8 ||| c.pos.unit <<< 16⟩) ∧
    (∀ h g, Handled s g → k.header c.pos.seg = some h → h.next = none → h.len = c.pos.unit →
      Traps .segmentEnd s g ⟨1, .header, 0x0D ||| 0xFF <<< 8 ||| c.pos.unit <<< 16⟩) ∧
    (∀ fz g, Handled s g → c.run = .frozen fz → c.wdog.toNat ≤ c.frozenFor →
      Traps .wdogExpiry s g ⟨6, (match fz with | .receive _ => .k | _ => .s), s.missedInfo fz⟩ ∧
      (∀ i, fz = .receive i → s.missedInfo fz = 0x3F) ∧ (∀ w, fz = .yard w → s.missedInfo fz = 0xBF)) ∧
    (let turn (x : Half) : Half := if x.seg.isSome && !x.complete && decide (x.nextAt ≤ c.clk) then x.expand k c.idx c.clk else x
     (s.spoiled = [] → ToCore .expandBundle s (fun c => { c with cur := turn c.cur, idle := turn c.idle })) ∧
     -- an entry that the bay's store must reload: a wait as long as a segment request takes
     (∀ g e, s.spoiled = [(bayOf c.ref, k.imgKey, e, none)] → c.cur.seg = some g → c.cur.complete = false → c.cur.nextAt ≤ c.clk →
       c.cur.pos < (k.units g).length → ((k.units g).getD c.cur.pos 0).toNat = e → c.idle.seg = none →
       exec .expandBundle s = .next { s with
         spoiled := [(bayOf c.ref, k.imgKey, e, some (s.mcyc.toNat + 32))]
         core := { c with
           cur := { c.cur with nextAt := c.clk + 32 }
           trace := { c.trace with miss := if c.item = none ∧ c.trace.miss = 0 then 1 else c.trace.miss } } }) ∧
     -- one whose reload is over, or of another image's store, is no wait
     ((∀ x ∈ s.spoiled, x.1 ≠ bayOf c.ref ∨ x.2.1 ≠ k.imgKey ∨ ∃ n, x.2.2.2 = some n ∧ n ≤ s.mcyc.toNat) →
       ToCore .expandBundle s (fun c => { c with cur := turn c.cur, idle := turn c.idle })) ∧
     ∀ (x : Half) (g : Nat) (hd : SegHeader) (w : BitVec 384) (next : Nat) (lit : Bool), x.seg = some g → k.header g = some hd → x.pos < hd.len →
       x.items.length ≠ 512 → expandUnit k.img.dict (k.units g) hd.len x.pos = .ok (w, next, lit) →
       ∃ item : XItem, item.off = x.pos ∧ item.next = next ∧
         (∀ b, decodeBundle (k.env c.idx) w = .ok b → item.bundle = b ∧ item.bad = none) ∧
         (∀ r, decodeBundle (k.env c.idx) w = .error r → item.bad = some r) ∧
         x.expand k c.idx c.clk = { x with items := x.items ++ [item], pos := next, nextAt := c.clk + (if lit then 2 else 1)
                                           complete := decide (hd.len ≤ next) }) ∧
    (∀ t, c.run = .sleeping t → c.waited.promise.toNat ≤ s.mcyc.toNat →
      (c.waited.done = false → ToCore .sleepEnd s fun c => { c with run := .frozen (.token t), frozenFor := 0 }) ∧
      (c.waited.done = true → c.waited.status = 0 → ToCore .sleepEnd s fun c =>
        { c with run := c.resumeTo, resumeTo := .running, notBefore := max c.notBefore (c.clk + 1), frozenFor := 0 })) ∧
    (c.run = .halting → (∀ x ∈ c.tok, x.2.done = true) → (∀ x ∈ c.hnd, x.2.st = .complete ∨ x.2.st = .idle) → c.mq = [] →
      ∃ t, exec .coreHalted s = .next t ∧ t.core.run = .halted ∧ t.core.stores = [] ∧ t.core.tok = c.tok ∧ t.core.hnd = c.hnd ∧
        t = { s with core := t.core, agenda := insertDue s.agenda ⟨s.mcyc.toNat, none, .kernelRetirement c.kernel⟩ })

/-- R82, R85, R322, R323, R327: the reply of the yard. HLD writes the reference that its lookup found and heals a slot that still holds
the old one; HPIN raises PINC of the object's present copy, clears the header's reserved bits and gives the raw address, or traps at
255; a reply to a copy engine marks its operation. -/
def Obligations.YardLookupsEndFreezes : Prop :=
  ∀ (s : State) (w : YardWait) (g : Region), s.core.run = .frozen (.yard w) → w.due ≤ s.mcyc.toNat → s.region? w.region = some g →
    let c := s.core
    let from_ := w.res.toNat / 16 % 2 ^ 53 * 16
    let found : Nat := match g.table.find? fun e => e.src == from_ with | some e => e.tgt | none => from_
    let resumed (tr : Trace) : Core :=
      { c with trace := tr, run := c.resumeTo, resumeTo := .running, notBefore := max c.notBefore (c.clk + 1), frozenFor := 0 }
    (w.pin = false →
      let r := w.res
      let same : Prop := natOf ((List.range 8).map fun i => c.poolByte (w.off + i)) = w.ref.toNat
      let heal : List (Nat × Byte) := (List.range 8).map fun i => (w.off + i, BitVec.ofNat 8 (r.toNat / 256 ^ i))
      ∃ tr, let healed := ((resumed tr).wh w.dst r).poolWrite heal
        (same → healed.logFull = false → exec (.yardLookupReply none) s = .next { s with core := healed }) ∧
        (¬ same → c.logFull = false → exec (.yardLookupReply none) s = .next { s with core := (resumed tr).wh w.dst r })) ∧
    (w.pin = true → g.relaying found = false → ∀ a, s.phys? g.key.ctx found = some a →
      let n := (s.memByte (a + 6)).toNat
      (n < 255 → ∃ tr, exec (.yardLookupReply none) s = .next { s with
        hbm := Sparse.setAll 0 s.hbm [(a + 6, BitVec.ofNat 8 (n + 1)), (a + 7, s.memByte (a + 7) &&& 3)]
        core := ((resumed tr).ws w.dst (BitVec.ofNat 64 found)).wh w.hreg (refWith (w.ref ||| 4) found g.epoch) }) ∧
      (n = 255 → ∀ h, Handled s h → Traps (.yardLookupReply none) s h ⟨0x0D, .s, w.ref.toNat⟩)) ∧
    (∀ id o, c.op? id = some o → o.stage = .held →
      ToCore (.yardLookupReply (some id)) s fun c => { c with ops := c.ops.map fun (p : COp) => if p.id = id then { p with parts := 2 } else p })

/-! ## Events of the copy engines -/

/-- R148, R149, R153, R175: acceptance holds the engine for the transfer phase and sets the promise; a refused operation ends with its
status at its acceptance and moves nothing (the model's reading: log 47); one that may go sets out, and its local completion is due at its
promise, never sooner. R374: a page that the engine's TLB does not hold costs 12 cc more in the die TLB, or 40 cc for each level read; an
engine's TLB holds no more than 64 pages, a die's no more than 4,096. The target of a striped access is its farthest one (log 131).
How much later than its promise a completion comes is free (log 10). -/
def Obligations.CopyEnginesAccept : Prop :=
  ∀ (s : State) (u : CUnit) (o : COp), s.canAccept u = some o → o.opc < 0x40 → o.empty = false →
    let c := s.core
    let now := s.mcyc.toNat
    let o := s.resolveYard { o with targets := s.targetsOf o.opc o.desc.toNat, routes := s.routesOf o.opc o.desc.toNat }
    let p := now + o.cost + s.latencyOf o
    c.heldBehind o = false →
    let o1 : COp := { o with stage := .held, accAt := now, promise := some p }
    let c1 : Core := (c.onOp o.id fun _ => o1).promise o.id (BitVec.ofNat 64 p)
    let c2 : Core := match u with
      | .c0 => { c1 with eng0 := { c1.eng0 with freeAt := c.clk + o.cost } }
      | .c1 => { c1 with eng1 := { c1.eng1 with freeAt := c.clk + o.cost } }
    let s1 : State := { s with core := c2 }
    (∀ st va, s1.startOf o1 = .refuse st va → c.run = .running →
      exec (.cOpAccept u) s = .next { s with core :=
        ((c2.finishLocal o.id st va).onHandle o.id fun h => { h with st := .complete, status := 6 }).finishDrain o.id }) ∧
    (∀ a ph, s1.startOf o1 = .go a ph →
      let pages : List (Nat × Nat) := match s.ctx? s.myCtx with
        | some x => (ph.filterMap fun e => x.pageOf (e.1 * 256)).dedup
        | none => []
      let own := match u with | .c0 => c.eng0.tlb | .c1 => c.eng1.tlb
      let walk (pg : Nat × Nat) : Nat := match s.ctx? s.myCtx with
        | some x => if (bayOf c.ref, x.id, pg.1, pg.2) ∈ s.dieTlb then 12 else 40 * (x.descent (bayOf c.ref) (pg.1 * 2 ^ 16)).2
        | none => 0
      let cost := ((pages.filter fun pg => !own.contains pg).map walk).sum
      ∃ t, exec (.cOpAccept u) s = .next t ∧
        t.core.op? o.id = some { o1 with stage := .moving, addr := a, phys := ph, accs := [] } ∧
        t = { s with
          core := t.core
          fresh := s.fresh + 1
          dieTlb := t.dieTlb
          agenda := insertDue s.agenda ⟨now + (p - now + cost + Config.late s.fresh), some c.ref, .cOpLocalComplete o.id⟩ } ∧
        (s.dieTlb.length ≤ 4096 → (∀ e ∈ s.dieTlb, e.1 = c.ref / 192) → t.dieTlb.length ≤ 4096 ∧ ∀ e ∈ t.dieTlb, e.1 = c.ref / 192) ∧
        t.core.eng0.tlb.length ≤ max 64 c.eng0.tlb.length ∧ t.core.eng1.tlb.length ≤ max 64 c.eng1.tlb.length ∧
        t.core = { c2 with ops := t.core.ops, tok := t.core.tok, brace := t.core.brace, eng0 := t.core.eng0, eng1 := t.core.eng1 })

/-- R150, R152, R155, R156: local completion. A get or a fill writes the pool and ends, its flags raised then; a put's source is read into
its staged bytes, kept in the shore log while it is withheld. That all of it is done in the one step of local completion is the model's
reading (log 37). No lease is out, nobody waits, no checkpoint stopped it on the way, and the log does not
overflow. -/
def Obligations.CopyEnginesCompleteLocally : Prop :=
  ∀ (s : State) (id : Nat) (o : COp) (p : Nat), s.core.op? id = some o → o.stage = .moving → o.promise = some p → p ≤ s.mcyc.toNat →
    s.core.run = .running → s.leases = [] → o.moved = 0 →
    let c := s.core
    let off := o.area.toNat % 2 ^ 24
    let cells (bs : List Byte) : List (Nat × Byte) := bs.mapIdx fun i b => (off + i, b)
    let ended (c : Core) (st va : Nat) : Core := ((c.finishLocal id st va).raise o.flags).prune
    let got (bs : List Byte) : Core := ended ((c.poolWriteOf id (cells bs)).onOp id fun o => { o with err := none }) 0 0
    (o.opc = 0x07 → o.outward = false → o.err = none →
      let t := got ((List.range o.y.toNat).map fun i => BitVec.ofNat 8 (o.x.toNat / 256 ^ (i % 8)))
      t.logFull = false → ToCore (.cOpLocalComplete id) s fun _ => t) ∧
    (o.opc = 0x01 → o.outward = false → o.err = none → s.poison = [] →
      let t := got ((List.range o.y.toNat).map fun i => s.memByte (o.mem ((o.x.toNat + i) % 2 ^ 57)))
      t.logFull = false → ToCore (.cOpLocalComplete id) s fun _ => t) ∧
    (o.opc = 0x02 → o.outward = true → o.released = false → o.staged = [] → c.logs = true →
      let bs := (List.range o.y.toNat).map fun i => c.poolByte (off + i)
      let d := (c.onOp id fun o => { o with staged := bs, logged := true }).finishLocal id 0 0
      let t : Core := { d with log := .staged d.interval id bs.length off (d.engineName o) :: d.log }
      t.logFull = false → ToCore (.cOpLocalComplete id) s fun _ => t)

/-- A product of two binary32 values, rounded once. -/
def product32 (x y : Nat) : Nat := (shF32.encode false ((shF32.decodeIeee x).mul (shF32.decodeIeee y)).1).1
/-- A sum of two binary32 values, rounded once. -/
def sum32 (x y : Nat) : Nat := (shF32.encode false ((shF32.decodeIeee x).add (shF32.decodeIeee y)).1).1
/-- Bytes from place `i` on as a number. -/
def numberAt (l : List Byte) (i n : Nat) : Nat := natOf ((List.range n).map fun j => l.getD (i + j) 0)
/-- How many values a weathered line of a format holds (R302). -/
def valueCount (fmt : Nat) : Nat := if fmt = 0 then 31 else 62
/-- The bytes of a value (R302). -/
def valueSize (fmt : Nat) : Nat := if fmt = 0 then 4 else 2
/-- Value `e`, counted from 0, of a weathered line, as a binary32 code (R302). -/
def valueAt (l : List Byte) (fmt e : Nat) : Nat := numberAt l (4 + valueSize fmt * e) (valueSize fmt) * (if fmt = 0 then 1 else 2 ^ 16)
/-- A binary32 code rounded to a line's format. -/
def inFormat (fmt x : Nat) : Nat := if fmt = 0 then x else (shBf16.encode false (shF32.decodeIeee x)).1
/-- The factor of R306: the powers of the age's bits multiplied in ascending order, each product rounded. -/
def factorOf (x : Context) (age rate : Nat) : Nat :=
  (List.range 23).foldl (fun f i => if age / 2 ^ i % 2 = 1 then product32 f (Sparse.get 0x3F800000 x.rates (rate * 24 + i)).toNat else f) 0x3F800000
/-- The raw age of a header's stamp, and the age taken (R121, R304). -/
def rawAge (step : W64) (hdr : Nat) : Nat := (step.toNat + 2 ^ 24 - hdr % 2 ^ 24) % 2 ^ 24
/-- The age of a header's stamp: none lies ahead (R304). -/
def ageTaken (step : W64) (hdr : Nat) : Nat := if rawAge step hdr < 2 ^ 23 then rawAge step hdr else 0
/-- A line of a header and values (R302). -/
def IsLine (l : List Byte) (hdr fmt : Nat) (value : Nat → Nat) : Prop :=
  l.length = 128 ∧ numberAt l 0 4 = hdr ∧ ∀ e < valueCount fmt, numberAt l (4 + valueSize fmt * e) (valueSize fmt) = value e % 2 ^ (8 * valueSize fmt)

/-- R152, R163, R167, R168: a released effect takes place. A put's staged bytes reach memory, in the one step of its drain (the model's
choice: log 55); a near-memory command updates its elements, or its lines, in ascending order, in one step (log 55) once the near-memory
unit has taken it over with its staged bytes (that it begins 220 cc later is log 133's). R169: a fence ends once everything it covers is
visible, and SCFENCE takes its place. The stamps ahead that a put of lines counts are log 32's reading. No burst is poisoned, no lease is out and no write of a line is under way. -/
def Obligations.ReleasedEffectsTakePlace : Prop :=
  (∀ (s : State) (id : Nat) (o : COp), s.core.op? id = some o →
    (o.released = true → o.drained = false → o.stage = .localDone → s.writesBefore o = false → s.migrating o = false →
      s.poison = [] → s.leases = [] → s.underWay = [] →
      let d := o.desc.toNat
      let ended (c : Core) : Core := { (c.onOp id fun o => { o with drained := true, staged := [] }).prune with
        log := c.log.filter fun r => match r with | .staged _ i _ _ _ => i != id | _ => true }
      let bytesAt (m : State) (a : Nat → Nat) (n : Nat) : List Byte := (List.range n).map fun j => m.memByte (a j)
      let put (m : State) (va : Nat) (bs : List Byte) : State :=
        { m with hbm := Sparse.setAll 0 m.hbm (bs.mapIdx fun j b => (o.mem (va + j), b)) }
      (o.opc = 0x02 → o.staged.length = o.y.toNat → o.y.toNat ≤ 2 ^ 24 →
        exec (.stagedDrain id) s = .next { s with
          hbm := Sparse.setAll 0 s.hbm (((List.range o.y.toNat).map fun i => o.mem ((o.x.toNat + i) % 2 ^ 57)).zip o.staged)
          core := ended s.core }) ∧
      (o.opc ∈ [0x20, 0x23, 0x32] → o.handed = false → exec (.nearMemoryExecute id) s = .next { s with
        fresh := s.fresh + 1
        agenda := insertDue s.agenda ⟨s.mcyc.toNat + (220 + Config.work s.fresh), some s.core.ref, .nearMemoryExecute id⟩
        core := { (s.core.onOp id fun o => { o with handed := true, logged := false }) with
          log := s.core.log.filter fun r => match r with | .staged _ i _ _ _ => i != id | _ => true } }) ∧
      -- HACC: its 4-byte elements
      (o.opc = 0x32 → o.handed = true →
        let base := o.addr + 16 + o.y.toNat % 2 ^ 32
        let one (m : State) (i : Nat) : State :=
          let old := natOf (bytesAt m (fun j => o.mem (base + 4 * i + j)) 4)
          let x := natOf ((o.staged.drop (4 * i)).take 4)
          put m (base + 4 * i) (bytesOf 4 (if o.y.getLsbD 63 then (old + x) % 2 ^ 32 else sum32 old x))
        exec (.nearMemoryExecute id) s = .next { (List.range (o.len / 4)).foldl one s with core := ended s.core }) ∧
      -- NMCMD on elements
      (o.opc = 0x20 → o.handed = true → 1 ≤ d % 2 ^ 8 → d % 2 ^ 8 ≤ 5 →
        let wide := o.desc.getLsbD 11
        let n := if wide then 2 else 4
        let sh := if wide then shBf16 else shF32
        let alpha := shF32.decodeIeee (d / 2 ^ 192 % 2 ^ 32)
        let beta := shF32.decodeIeee (d / 2 ^ 224 % 2 ^ 32)
        let one (m : State) (i : Nat) : State :=
          let dst := d / 2 ^ 64 % 2 ^ 64 + n * i
          let src := d / 2 ^ 128 % 2 ^ 64 + n * i
          let dv := sh.decodeIeee (natOf (bytesAt m (fun j => o.mem (dst + j)) n))
          let x := natOf (bytesAt m (fun j => o.mem src + j) n)
          let sv := sh.decodeIeee x
          put m dst (bytesOf n (match d % 2 ^ 8 with
            | 1 => (sh.encode false alpha).1
            | 2 => (sh.encode false (alpha.mul dv).1).1
            | 3 => (sh.encode false ((alpha.mul sv).1.add dv).1).1
            | 4 => (sh.encode false ((alpha.mul sv).1.add (beta.mul dv).1).1).1
            | _ => x))
        exec (.nearMemoryExecute id) s = .next { (List.range (d / 2 ^ 32 % 2 ^ 32)).foldl one s with core := ended s.core }) ∧
      -- CPWACC and NMCMD WACC: their lines
      (∀ x, s.ctx? s.myCtx = some x → o.handed = true →
        let one (dst : Nat → Nat) (from_ : State → Nat → List Byte) (m : State) (i : Nat) : State :=
          let r := x.accLine o.step (bytesAt m (fun j => o.mem (dst i + j)) 128) (from_ m i)
          put (m.countLines s.myCtx (bayOf s.core.ref) r.ahead r.bad) (dst i) r.line
        (o.opc = 0x23 → exec (.nearMemoryExecute id) s = .next { (List.range (o.len / 128)).foldl
          (one (fun i => o.x.toNat + 128 * i) fun _ i => (o.staged.drop (128 * i)).take 128) s with core := ended s.core }) ∧
        (o.opc = 0x20 → d % 2 ^ 8 = 6 → exec (.nearMemoryExecute id) s = .next { (List.range (d / 2 ^ 32 % 2 ^ 32)).foldl
          (one (fun i => d / 2 ^ 64 % 2 ^ 64 + 128 * i) fun m i => bytesAt m (fun j => o.mem (d / 2 ^ 128 % 2 ^ 64 + 128 * i) + j) 128) s
          with core := ended s.core }))) ∧
    (o.opc = 0x78 ∨ o.opc = 0x79 → o.stage = .moving → s.core.coversOver o = true → s.core.run = .running →
      exec (.fenceComplete id) s = .next { s with
        scOrder := if o.opc = 0x79 then insertSc s.scOrder (s.mcyc.toNat, s.core.ref, id) else s.scOrder
        core := { (match o.err with | some va => s.core.finishLocal id 1 (va / 256) | none => s.core.finishLocal id 0 0).prune with
          noted := s.core.noted.filter fun ids => !ids.contains id } })) ∧
  -- one line accumulated into another (R167)
  (∀ (x : Context) (step : W64) (m p : List Byte), m.length = 128 → p.length = 128 →
    let h := numberAt m 0 4
    let fmt := h / 2 ^ 29 % 4
    let f := factorOf x (ageTaken step h) (h / 2 ^ 24 % 32)
    let r := x.accLine step m p
    (2 ≤ fmt → r = ⟨m, {}, 0, 1⟩) ∧
    (fmt < 2 → r.flags = {} ∧ r.bad = 0 ∧ r.ahead = (if h < 2 ^ 31 ∧ 2 ^ 23 ≤ rawAge step h then 1 else 0) ∧
      IsLine r.line (fmt * 2 ^ 29 + h / 2 ^ 24 % 32 * 2 ^ 24 + step.toNat % 2 ^ 24) fmt fun e =>
        let n := sum32 (if h < 2 ^ 31 then product32 (valueAt m fmt e) f else 0) (valueAt p fmt e)
        if fmt = 0 then n else inFormat 1 n))

/-! ## Events of windows, counters and collectives -/

namespace Sys2Proof.Claims

open Sys2Proof.Machine

/-- An access that its port decides on, with nothing before it: it is not under way, no earlier access of its route waits at the bay or
was turned away, its window has nothing held back, no window of the module has an epoch to close, and the window's kernel has not
retired. -/
def AtHead (s : State) (w : Window) (a : Access) : Prop :=
  a.rest = none ∧ (∀ v ∈ s.windows, s.ready v = false) ∧ a.agent = false ∧ a.coll = none ∧ w.held = [] ∧ w.stalled = [] ∧ w.wfences = [] ∧ 0 < w.count ∧
  s.awayUntil a = none ∧ s.routeHolder a = none ∧ ∀ kr, s.kernel? w.kernel = some kr → kr.phase ≠ .retired

/-- The core waits on no token and no handle. -/
def Waitless (c : Core) : Prop :=
  ∀ n, c.run ≠ .waitToken n ∧ c.run ≠ .waitLocal n ∧ c.run ≠ .waitRemote n ∧ c.run ≠ .frozen (.token n)

/-- Of the module's cores, only the one named may differ; it is now `c`. -/
def OnlyCore (s t : State) (r : Nat) (c : Core) : Prop := t.coreAt r = c ∧ ∀ q, q ≠ r → t.coreAt q = s.coreAt q

/-- A message to a bay of the domain is on its way, along the module's own fabric or out of the module. -/
def Sent (t : State) (gbay : Nat) (mk : Nat → Instr) : Prop :=
  if gbay / 8 = t.node.toNat then ∃ e ∈ t.agenda, e.ev = mk (gbay % 8) else mk gbay ∈ t.outbox

/-- An answer to an operation of a core is on its way, within the module or out of it. -/
def Answered (t : State) (r : Reply) : Prop :=
  if r.core < 1536 then ∃ e ∈ t.agenda, e.ev = .remoteCompletion r else .remoteCompletion r ∈ t.outbox

end Sys2Proof.Claims


/-- R181, R356: a reply to the core in focus. The last part of an operation completes its token and handle with the first nonzero status
in ascending place, and a get's bytes stand in the pool. R185, R297: a refused request sets out again. R254: a lease ends. What a reply
to a core that is away becomes is the model's reading of R356 (log 67). -/
def Obligations.RepliesAndRetries : Prop :=
  (∀ (s : State) (r : Reply) (o : COp), s.redirect r.core r.op = s.core.ref → s.core.op? r.op = some o → o.opc = 0x42 →
    o.replies.length + 1 = o.parts → o.fired = false → r.part ∉ o.stale → (∀ wk ∈ s.core.walkers, wk.op ≠ r.op) →
    s.core.run = .running → r.status < 256 → (∀ x ∈ o.replies, x.2 < 256) →
    let c := s.core
    let rs := o.replies ++ [(r.part, r.status)]
    let st := partsStatus rs
    let put (c : Core) : Core := if r.data.isEmpty then c else
      c.poolWriteOf o.id (r.data.mapIdx fun i b => (o.area.toNat % 2 ^ 24 + r.part + i, b))
    let t := ((((put c).onOp o.id fun o => { o with replies := rs, asked := o.asked.filter (· != r.part) }).finishLocal o.id (tokenStatus st) 0).onHandle o.id fun h =>
      { h with st := .complete, status := st }).finishDrain o.id
    (∀ i j, i < rs.length → j < rs.length → (rs.getD i (0, 0)).1 = (rs.getD j (0, 0)).1 → i = j) →
    (st = 0 ↔ ∀ x ∈ rs, x.2 = 0) ∧ (∀ x ∈ rs, x.2 ≠ 0 → (∀ y ∈ rs, y.2 ≠ 0 → x.1 ≤ y.1) → st = x.2) ∧
    (t.logFull = false → ToCore (.remoteCompletion r) s fun _ => t)) ∧
  (∀ (s : State) (a : Access), s.barred a = false →
    (a.node ≠ s.node.toNat → exec (.targetAwayRetry a) s = .next { s with outbox := s.outbox ++ [.remoteAccessArrival a] }) ∧
    (a.node = s.node.toNat → ∀ t, s.awayUntil a = some t → s.mcyc.toNat < t → exec (.targetAwayRetry a) s = .next
      { s with agenda := insertDue s.agenda ⟨t, none, .targetAwayRetry a⟩ }) ∧
    (a.node = s.node.toNat → (∀ e ∈ s.agenda, ∀ b, e.ev ≠ .targetAwayRetry b) →
      (a.rest = none → a.ctr = none → exec (.targetAwayRetry a) s = exec (.remoteAccessArrival a) s) ∧
      (∀ m, a.ctr = some m → s.owes m.core m.after = false → exec (.targetAwayRetry a) s = exec (.counterIncrement m) s))) ∧
  (∀ (s : State) (m : LockMsg), exec (.lockRetry m) s = .next
    { s with fresh := s.fresh + 1, agenda := insertDue s.agenda ⟨s.mcyc.toNat + Config.transit s.fresh, none, .lockRequestArrival m⟩ }) ∧
  (∀ (s : State) (line : Nat), exec (.leaseExpiry line) s = .next
    { s with leases := s.leases.filter fun l => !(l.line == line && decide (l.ends ≤ s.mcyc.toNat * 2)) })

/-- R242, R244, R245: the checks of an access at its port, in order; the first that fails is the cause. -/
def Obligations.PortChecksInOrder : Prop :=
  ∀ (w : Window) (a : Access),
    (portCheck none a = .reject (if a.tagOk then 4 else 8)) ∧
    (a.tagOk = false → portCheck (some w) a = .reject 8) ∧
    (a.tagOk = true → w.live = false → portCheck (some w) a = .reject 4) ∧
    (a.tagOk = true → w.live = true → a.org.rank ∈ w.broken → portCheck (some w) a = .reject 7) ∧
    (a.tagOk = true → w.live = true → a.org.rank ∉ w.broken →
      (∀ c, w.epoch a = .reject c → portCheck (some w) a = .reject c) ∧ (w.epoch a = .hold → portCheck (some w) a = .hold) ∧
      (w.epoch a = .accept →
        let weathered : Prop := a.dty = 6
        let form : Prop := a.len = 0 ∨ (w.wth = false ∧ ¬ weathered) ∨ (w.wth = true ∧ weathered ∧ a.off % 128 = 0 ∧ a.len % 128 = 0)
        let atomic : Prop := 0x60 ≤ a.opc ∧ a.opc ≤ 0x62
        let whole : Prop := a.off % dtyBytes a.dty = 0 ∧ a.len = dtyBytes a.dty
        (¬ form → portCheck (some w) a = .reject 5) ∧
        (form → atomic → ¬ whole → portCheck (some w) a = .reject 6) ∧
        (form → (¬ atomic ∨ whole) → a.len ≠ 0 → w.len < a.off + a.len → portCheck (some w) a = .reject 1) ∧
        (form → (¬ atomic ∨ whole) → (a.len = 0 ∨ a.off + a.len ≤ w.len) → portCheck (some w) a = .accept))) ∧
    (w.mode = .postStart → w.epoch a =
      match w.exposed with | some g => if a.org.rank ∈ g.ranks ∧ a.org.rank ∉ w.compl then .accept else .reject 2 | none => .reject 2) ∧
    (w.mode = .lock → w.epoch a = if ∃ h ∈ w.holders, h.rank = a.org.rank then .accept else .reject 2) ∧
    (w.mode = .none ∨ w.mode = .fence → a.opened = false → w.epoch a = .reject 2) ∧
    (w.mode = .none ∨ w.mode = .fence → a.opened = true → w.opened = true → a.fi = w.fi → w.epoch a = .accept)

/-- R181, R242, R246, R250, R251, R248, R249, R247: the events of a window at its bay. That an accepted access may be under way with its
pieces applied in any order is the model's choice (log 134), and so are what a failed tag is reported as (log 158) and that an access which
waits for a translation is not checked again (log 92). -/
def Obligations.WindowEventsAtTheTarget : Prop :=
  ∀ (s : State) (k : WinKey) (w : Window), s.window? k = some w → (∀ v ∈ s.windows, v.key = k → v = w) →
    let now := s.mcyc.toNat
    -- the receipt sent back to an operation of a core of this module
    let back (t : State) (core op st : Nat) : State := { t with
      fresh := t.fresh + 1, agenda := insertDue t.agenda ⟨t.mcyc.toNat + Config.transit t.fresh, none, .remoteCompletion ⟨core, op, st, [], 0⟩⟩ }
    let on (f : Window → Window) : State := { s with windows := s.windows.map fun v => if v.key = k then f v else v }
    -- an access the port rejects is recorded and answered with 0x01
    (∀ a : Access, a.key = k → AtHead s w a → a.org.node = s.node.toNat →
      ∀ cause, cause ≠ 4 → portCheck (some w) a = .reject cause →
        exec (.remoteAccessArrival a) s = .next
          (let t := on fun v => { v with status := v.status.record cause a.opc a.off a.len a.org.rank now }
           { t with fresh := s.fresh + 1
                    sys := if cause = 8 then { s.sys with console := s.sys.console ++ [.fenceEvent (.link (a.org.node % 18))] } else s.sys
                    agenda := insertDue s.agenda ⟨now + Config.transit s.fresh, none, .remoteCompletion ⟨a.org.core, a.org.op, 1, [], a.part⟩⟩ })) ∧
    -- an accepted put to a pool window: its pieces are aligned doublewords of the pool. One of one piece is written and answered with 0x00;
    -- of several, either all are written, or the access is under way and each further step writes one of them, or all that are left
    (∀ a : Access, a.key = k → a.agent = false → a.coll = none → w.held = [] → w.stalled = [] → w.wfences = [] → 0 < w.count →
      (∀ v ∈ s.windows, s.ready v = false) → (∀ kr, s.kernel? w.kernel = some kr → kr.phase ≠ .retired) → a.org.node = s.node.toNat →
      w.pool = true → s.isAway w = false → a.opc = 0x43 → a.dty = 0 → a.rce = false → a.bad = 0 → s.core.ref = w.agent →
        let starts := (List.range a.len).filter fun i => i = 0 ∨ (w.base + a.off + i) % 8 = 0
        let pieces := starts.mapIdx fun n i => (i, starts.getD (n + 1) a.len - i)
        -- the pieces written, in the order of the list
        let wrote (fresh : Nat) (qs : List (Nat × Nat)) (ev : Instr) : State := { s with
          core := qs.foldl (fun c q => c.poolWriteRemote (((a.data.drop q.1).take q.2).mapIdx fun i b => (w.base + a.off + q.1 + i, b))) s.core
          fresh := fresh + 1
          agenda := insertDue s.agenda ⟨now + Config.transit fresh, none, ev⟩ }
        let whole (fresh : Nat) (ev : Instr) : State := { s with
          core := s.core.poolWriteRemote (a.data.mapIdx fun i b => (w.base + a.off + i, b))
          fresh := fresh + 1
          agenda := insertDue s.agenda ⟨now + Config.transit fresh, none, ev⟩ }
        let answer : Instr := .remoteCompletion ⟨a.org.core, a.org.op, 0, [], a.part⟩
        (AtHead s w a → portCheck (some w) a = .accept → a.data.length = a.len →
          (pieces.length ≤ 1 → exec (.remoteAccessArrival a) s = .next (whole s.fresh answer)) ∧
          (1 < pieces.length → exec (.remoteAccessArrival a) s = .next
            (if Config.choice s.fresh then wrote (s.fresh + 1) [] (.remoteAccessArrival { a with rest := some pieces })
             else whole (s.fresh + 1) answer))) ∧
        (∀ q qs, a.rest = some (q :: qs) → (q :: qs).Nodup →
          let one := (q :: qs).getD (Config.pick s.fresh % (qs.length + 1)) q
          exec (.remoteAccessArrival a) s = .next
            (if Config.choice (s.fresh + 1) = true ∧ qs ≠ [] then
              wrote (s.fresh + 2) [one] (.remoteAccessArrival { a with rest := some ((q :: qs).filter fun x => x != one) })
             else wrote (s.fresh + 2) (q :: qs) answer))) ∧
    (∀ m : WinMsg, m.key = k → w.held = [] → w.stalled = [] → w.count = 1 → w.wfences = [] → m.rank = 0 → w.rank = 0 → m.fi = (w.fi + 1) % 256 →
      (∀ v ∈ s.windows, s.ready v = false) → s.inBacklog w = false → (∀ kr, s.kernel? w.kernel = some kr → kr.phase ≠ .retired) →
      m.count ≤ w.gotten 0 w.fi → ∃ t v, exec (.wfenceArrival m) s = .next t ∧ t.window? k = some v ∧ v.fi = m.fi ∧ v.opened = !m.last ∧
        v.mode = (if m.last then .none else .fence) ∧ t.hbm = s.hbm ∧ t.core = s.core) ∧
    (∀ m : WinMsg, m.key = k → m.fi < 1536 → w.started = none → Sparse.get 0 w.latch m.rank < 255 →
      exec (.postArrival m) s = .next
        (back (on fun v => { v with latch := Sparse.set 0 v.latch m.rank (Sparse.get 0 v.latch m.rank + 1) }) m.fi m.count 0)) ∧
    (∀ (m : WinMsg) (g : Group), m.key = k → m.fi < 1536 → w.exposed = some g → w.closing = none → m.rank ∈ g.ranks → m.rank ∉ w.compl →
      exec (.completionNoticeArrival m) s = .next (back (on fun v => { v with compl := v.compl ++ [m.rank] }) m.fi m.count 0)) ∧
    (∀ m : LockMsg, m.key = k →
      (64 ≤ w.queue.length → exec (.lockRequestArrival m) s = .next { s with agenda := insertDue s.agenda ⟨now + 2048, none, .lockRetry m⟩ }) ∧
      (m.core < 1536 → w.queue = [] → w.holders = [] → w.lockb = 0 →
        ∃ t v, exec (.lockRequestArrival m) s = .next t ∧ t.window? k = some v ∧ v.mode = .lock ∧ v.queue = [] ∧
          v.holders = [⟨m.rank, m.excl, m.core, m.op, now⟩] ∧ t.core = s.core ∧ t.hbm = s.hbm ∧
          t.agenda = insertDue s.agenda ⟨now + Config.transit s.fresh, none, .remoteCompletion ⟨m.core, m.op, 0, [], 0⟩⟩) ∧
      (s.rankUnapplied w m.rank = true → exec (.unlockArrival m) s = .next { s with agenda := insertDue s.agenda ⟨now + 1, none, .unlockArrival m⟩ }) ∧
      (s.rankUnapplied w m.rank = false → m.core < 1536 → m.rank ∉ w.broken → (∃ h, w.holders = [h] ∧ h.rank = m.rank) → w.queue = [] → w.mode = .lock →
        ∃ t v, exec (.unlockArrival m) s = .next t ∧ t.window? k = some v ∧ v.mode = .none ∧ v.holders = [] ∧ t.core = s.core ∧
          t.agenda = insertDue s.agenda ⟨now + Config.transit s.fresh, none, .remoteCompletion ⟨m.core, m.op, 0, [], 0⟩⟩) ∧
      (s.rankUnapplied w m.rank = false → m.core < 1536 → m.rank ∈ w.broken →
        exec (.unlockArrival m) s = .next (back (on fun v => { v with broken := v.broken.filter fun r => r != m.rank }) m.core m.op 4))) ∧
    (∀ h e, w.lockb ≠ 0 → w.holders = [h] → w.queue = [e] → e.core < 1536 → s.rankUnapplied w h.rank = false → h.since + w.lockb * 2 ^ 16 ≤ now →
      ∃ t v, exec (.lockBreak k) s = .next t ∧ t.window? k = some v ∧ v.broken = w.broken ++ [h.rank] ∧ v.queue = [] ∧
        v.holders = [{ e with since := now }] ∧ t.core = s.core ∧ t.hbm = s.hbm)

/-- R186, R188, R194, R294, R370: increments, triggers, takes and circuit entries. That a fired operation counts as one of the core's
engine C0 is the model's choice (log 164); that a get increments no counter is its reading of R180 (log 108). -/
def Obligations.CountersTriggersTakesAndEntries : Prop :=
  ∀ (s : State),
    -- an increment, once the stores it follows are visible; triggers that it reaches are due
    (∀ m : CtrMsg, s.owes m.core m.after = true →
      exec (.counterIncrement m) s = .next { s with agenda := insertDue s.agenda ⟨s.mcyc.toNat + 1, none, .counterIncrement m⟩ }) ∧
    (∀ (m : CtrMsg) (k : Kernel), s.owes m.core m.after = false → (m.quiet = true ∨ s.awayUntil (s.ctrAccess m) = none) → s.queueOf m.kernel m.id = none → s.kernel? m.kernel = some k →
      s.kernelAway k = false →
      let v := s.counter m.kernel m.bay m.id + m.inc
      let reached (x : Trigger) : Prop := m.inc ≠ 0 ∧ x.cid = m.id ∧ x.thr.toNat ≤ v.toNat ∧ x.due = false
      let answer : Reply := ⟨m.core, m.op, 0, bytesOf 8 v.toNat, 0⟩
      ∃ t, exec (.counterIncrement m) s = .next t ∧ t.counter m.kernel m.bay m.id = v ∧
        (∀ j b i, (j, b, i) ≠ (m.kernel, m.bay, m.id) → t.counter j b i = s.counter j b i) ∧
        (∀ r, t.coreAt r = { s.coreAt r with triggers :=
          if r ∈ k.cores ∧ r / 192 = m.bay then (s.coreAt r).triggers.map fun x => if reached x then { x with due := true } else x
          else (s.coreAt r).triggers }) ∧
        (∀ r ∈ k.cores, r / 192 = m.bay → ∀ x ∈ (s.coreAt r).triggers, reached x → x.tid < 256 → ∃ e ∈ t.agenda, e.ev = .triggerFire r x.tid) ∧
        (m.quiet = false → Answered t answer) ∧
        ((∀ r ∈ k.cores, r / 192 = m.bay → ∀ x ∈ (s.coreAt r).triggers, ¬ reached x) → m.quiet = false → m.core < 1536 →
          t = { s with counters := t.counters, fresh := s.fresh + 1
                       agenda := insertDue s.agenda ⟨s.mcyc.toNat + Config.transit s.fresh, none, .remoteCompletion answer⟩ })) ∧
    -- an increment of a queue counter saturates at the capacity
    (∀ (m : CtrMsg) (ctx qid : Nat) (fill : Bool) (q : TaskQueue), s.owes m.core m.after = false →
      (m.quiet = true ∨ s.awayUntil (s.ctrAccess m) = none) →
      s.queueOf m.kernel m.id = some (ctx, qid, fill) → s.queue? ctx qid = some q → 0 < m.inc.toInt →
      let v := if fill then q.fill else q.free
      let sum := v.toNat + m.inc.toNat
      let q' : TaskQueue := if q.cap < sum then { q with ovrn := min (q.ovrn + 1) (2 ^ 32 - 1) } else q
      let x : W64 := BitVec.ofNat 64 (min q.cap sum)
      ∃ t, exec (.counterIncrement m) s = .next t ∧ t.queue? ctx qid = some (if fill then { q' with fill := x } else { q' with free := x }) ∧
        (∀ c i, (c, i) ≠ (ctx, qid) → t.queue? c i = s.queue? c i) ∧ (m.quiet = false → Answered t ⟨m.core, m.op, 0, bytesOf 8 v.toNat, 0⟩) ∧
        t = { s with taskQueues := t.taskQueues, agenda := t.agenda, outbox := t.outbox, fresh := t.fresh }) ∧
    -- a trigger that is due: its entry is freed, and its operation runs, released, with its pool side at OBUF, or completes with 0x06
    (∀ (core tid : Nat) (tr : Trigger),
      let c := s.coreAt core
      let d := tr.desc.toNat
      let freed : Core := { c with triggers := c.triggers.filter fun x => x.tid != tid }
      (c.triggers.find? fun x => x.tid == tid) = some tr →
      (tr.due = true ∨ tr.thr.toNat ≤ (s.counter c.kernel (core / 192) tr.cid).toNat) → Waitless c →
      ((s.focus core).localRefusal tr.opc d = true → ∃ t, exec (.triggerFire core tid) s = .next t ∧
        OnlyCore s t core (freed.finishRemote tr.op 6) ∧ t = { s with core := t.core, peers := t.peers }) ∧
      ((s.focus core).localRefusal tr.opc d = false → ∃ t, exec (.triggerFire core tid) s = .next t ∧
        (t.coreAt core).triggers = freed.triggers ∧ (t.coreAt core).nextOp = c.nextOp + 1 ∧
        (t.coreAt core).hnd = (c.onHandle tr.op fun h =>
          { h with owner := c.nextOp, st := if tr.opc = 0x42 then h.st else .localDone }).hnd ∧
        (∃ o ∈ (t.coreAt core).ops, o.id = c.nextOp ∧ o.opc = tr.opc ∧ o.desc = BitVec.ofNat 1024 d ∧ o.area = BitVec.ofNat 64 tr.obuf ∧
          o.released = true ∧ o.fired = true ∧ o.hnd = some (d / 2 ^ 27 % 32) ∧
          o.staged = if tr.opc = 0x42 then [] else c.poolBytes tr.obuf (d / 2 ^ 128 % 2 ^ 24)) ∧
        (∀ r, r ≠ core → t.coreAt r = s.coreAt r) ∧ t.hbm = s.hbm ∧ t.counters = s.counters)) ∧
    -- the oldest take of a queue counter waits for its n
    (∀ (ctx qid : Nat) (fill : Bool) (q : TaskQueue) (t : Take) (rest : List Take), s.queue? ctx qid = some q →
      (if fill then q.fillTakes else q.freeTakes) = t :: rest →
      let v := if fill then q.fill else q.free
      (v.toNat < t.n → exec (.queueTakeGrant ctx qid fill) s = .next s) ∧
      (t.n ≤ v.toNat → ∃ u, exec (.queueTakeGrant ctx qid fill) s = .next u ∧
        u.queue? ctx qid = some (if fill then { q with fill := v - BitVec.ofNat 64 t.n, fillTakes := rest }
          else { q with free := v - BitVec.ofNat 64 t.n, freeTakes := rest }) ∧
        (∀ c i, (c, i) ≠ (ctx, qid) → u.queue? c i = s.queue? c i) ∧ Answered u ⟨t.core, t.op, 0, bytesOf 8 v.toNat, 0⟩ ∧
        u = { s with taskQueues := u.taskQueues, agenda := u.agenda, outbox := u.outbox, fresh := u.fresh } ∧
        (t.core < 1536 → u.agenda = insertDue (insertDue s.agenda ⟨s.mcyc.toNat + Config.transit s.fresh, none,
          .remoteCompletion ⟨t.core, t.op, 0, bytesOf 8 v.toNat, 0⟩⟩) ⟨s.mcyc.toNat, none, .queueTakeGrant ctx qid fill⟩))) ∧
    -- a circuit entry is queued at its core; one that a receive of its channel is frozen on ends the freeze; at a full queue it is lost
    (∀ m : CircuitMsg,
      let c := s.coreAt m.core
      let q := ((c.queues.find? fun q => q.1 == m.ch).map (·.2)).getD []
      let others := c.queues.filter fun x => x.1 != m.ch
      c.kernel ≠ 0 →
      (q.length < 4 → (∀ i f kd, c.run = .frozen (.receive i) → recvOf i = some (f, kd) → f.ch.toNat ≠ m.ch) →
        ∃ t, exec (.circuitEntryArrival m) s = .next t ∧
          OnlyCore s t m.core { c with queues := others ++ [(m.ch, q ++ [⟨m.present, m.lanes, false⟩])] } ∧
          t = { s with core := t.core, peers := t.peers }) ∧
      (q.length < 4 → ∀ i f kd, c.run = .frozen (.receive i) → recvOf i = some (f, kd) → f.ch.toNat = m.ch → (∀ e ∈ q, e.used = true) →
        ∃ t, exec (.circuitEntryArrival m) s = .next t ∧ (t.coreAt m.core).run = c.resumeTo ∧
          (t.coreAt m.core).queues = others ++ [(m.ch, q ++ [⟨m.present, m.lanes, true⟩])] ∧
          (t.coreAt m.core).pend = (c.receive f kd ⟨m.present, m.lanes, false⟩).pend ∧ (∀ r, r ≠ m.core → t.coreAt r = s.coreAt r)) ∧
      (4 ≤ q.length → m.core = s.core.ref → ∀ k, s.mine = some k → k.ending = none → k.phase ≠ .retired → k.record = none →
        s.core.ref ∈ k.cores →
        ∃ t k', exec (.circuitEntryArrival m) s = .next t ∧ t.kernel? k.seq = some k' ∧ k'.ending = some .faulted ∧
          ∃ r, k'.record = some r ∧ r.cause = 0x104))

/-- An element combined with another (R181): floats exactly and rounded once, integers modulo the width or in their order. -/
def combined (aop dty t x : Nat) : Nat :=
  let w := 8 * dtyBytes dty
  let sh := if dty = 3 then shBf16 else shF32
  let a := sh.decodeIeee t
  let b := sh.decodeIeee x
  let number (v : Nat) : Int := if dty ≠ 2 ∧ 2 ^ (w - 1) ≤ v then (v : Int) - 2 ^ w else v
  if dty = 0 ∨ dty = 3 then (sh.encode false (match aop with | 0 => (a.add b).1 | 1 => (a.max2 b).1 | _ => (a.min2 b).1)).1
  else match aop with
    | 0 => (t + x) % 2 ^ w
    | 1 => if number t < number x then x else t
    | 2 => if number x < number t then x else t
    | 4 => t &&& x
    | 5 => t ||| x
    | _ => t ^^^ x

/-- R189, R190, R191, R192: barriers and bay atomics. BARINIT and BARARR act on the object in the home core's pool as the rule's program
says; a BARWAIT ends when the phase is another one, also one found waiting, or with status 2 when its bound passes. BAYADD and BAYCAS
combine or compare and exchange a word of the target core's pool in one step, and return the old value. -/
def Obligations.BarriersAndBayAtomics : Prop :=
  (∀ (b : Barrier) (n : Nat),
    b.init n = (if n = 0 ∨ 2 ^ 32 ≤ n then { b with expected := 0, uai := true, arrived := 0, ovr := false }
      else { b with expected := n, uai := false, arrived := 0, ovr := false }) ∧
    b.arrive n = (if b.expected < b.arrived + n then ({ b with ovr := true }, false)
      else if b.arrived + n = b.expected then ({ b with arrived := 0, phase := (b.phase + 1) % 16 }, true)
      else ({ b with arrived := b.arrived + n }, true)) ∧
    (b.expected < 2 ^ 32 → b.arrived < 2 ^ 32 → b.phase < 16 → Barrier.ofNat b.toNat = b)) ∧
  (∀ (s : State) (op : Nat) (o : COp) (k : Kernel), s.core.op? op = some o → s.mine = some k → o.id = op → s.core.run = .running → o.stage = .moving →
    let c := s.core
    let off := o.area.toNat % 2 ^ 24
    let b := Barrier.ofNat (natOf ((List.range 16).map fun i => c.poolByte (off + i)))
    let put (b : Barrier) (c : Core) : Core := c.poolWriteRemote ((bytesOf 16 b.toNat).mapIdx fun i x => (off + i, x))
    let ended (c : Core) (st : Nat) : Core := (c.finishLocal op st 0).finishDrain op
    k.cores = [c.ref] → o.addr ≠ 0 → (∀ i < 16, c.place (off + i) = some (o.addr - 1 + i)) →
    ((∀ p ∈ c.ops, p.opc ≠ 0x72 ∨ p.id = op) →
    (o.opc = 0x70 → ToCore (.bayAtomicOp c.ref op) s fun c => ended (put (b.init o.x.toNat) c) 0) ∧
    (o.opc = 0x71 → ToCore (.bayAtomicOp c.ref op) s fun c =>
      ended ((put (b.arrive (o.f.sx.toNat % 16)).1 c).wp (o.f.sy.toNat % 16) (b.arrive (o.f.sx.toNat % 16)).2) 0) ∧
    (o.opc = 0x72 → b.phase ≠ o.f.sx.toNat % 16 → ToCore (.bayAtomicOp c.ref op) s fun c => ended c 0) ∧
    (o.opc = 0x72 → b.phase = o.f.sx.toNat % 16 → ToCore (.bayAtomicOp c.ref op) s fun c =>
      if o.accAt + o.y.toNat ≤ s.mcyc.toNat then ended c 2 else c.onOp op fun o => { o with parts := 1 }) ∧
    (o.opc = 0x72 → o.parts = 1 → ToCore (.barwaitTimeout op) s fun c =>
      if o.accAt + o.y.toNat ≤ s.mcyc.toNat then ended c 2 else c)) ∧
    -- the last arrival lets one that waits on the object go
    (∀ (p : COp), o.opc = 0x71 → p.id ≠ op → c.op? p.id = some p → p.opc = 0x72 → p.stage = .moving → p.parts = 1 → p.addr = o.addr →
      (c.ops.map (·.id)).Nodup → (∀ x ∈ c.ops, x.opc = 0x72 → x = p) →
      let r := b.arrive (o.f.sx.toNat % 16)
      let arrived (c : Core) : Core := ended ((put r.1 c).wp (o.f.sy.toNat % 16) r.2) 0
      ToCore (.bayAtomicOp c.ref op) s fun c =>
        if r.1.phase ≠ p.f.sx.toNat % 16 then ((arrived c).finishLocal p.id 0 0).finishDrain p.id else arrived c)) ∧
  (∀ (s : State) (op : Nat) (o : COp) (k : Kernel), s.core.op? op = some o → s.mine = some k → o.id = op → s.core.run = .running → o.stage = .moving →
    (∀ r ∈ k.cores, ∀ p ∈ (s.coreAt r).ops, p.opc ≠ 0x72) →
    let d := o.desc.toNat
    let dty := d / 2 ^ 40 % 8
    dty ∈ [0, 1, 2, 5] →
    let n := dtyBytes dty
    let mine := o.area.toNat % 2 ^ 24
    let word (c : Core) (off : Nat) : Nat := natOf ((List.range n).map fun i => c.poolByte (off + i))
    let put (off x : Nat) : List (Nat × Byte) := (bytesOf n x).mapIdx fun i b => (off + i, b)
    let x := word s.core mine
    let old := word (s.coreAt o.addr) (d % 2 ^ 24)
    let done (new : Nat) : State :=
      let t := s.onCore o.addr fun c => c.poolWriteRemote (put (d % 2 ^ 24) new)
      { t with core := ((t.core.poolWriteOf op (put mine old)).finishLocal op 0 0).finishDrain op }
    (o.opc = 0x73 → (done (combined (d / 2 ^ 43 % 16) dty old x)).core.logFull = false →
      exec (.bayAtomicOp s.core.ref op) s = .next (done (combined (d / 2 ^ 43 % 16) dty old x))) ∧
    (o.opc = 0x74 →
      let new := if old = d / 2 ^ 192 % 2 ^ (8 * n) then x else old
      (done new).core.logFull = false → exec (.bayAtomicOp s.core.ref op) s = .next (done new)))

/-- R197, R285, R288, R289, R290, R291, R292: the walker and the messages of a collective. That a message of a collective which the member
has not started is kept by its sender, and one of a collective that is over dropped, is the model's choice (log 51), and so is the status 0
of a token whose walker an abort stops (log 135). -/
def Obligations.CollectiveEvents : Prop :=
  -- a message of a collective that the member has not started is kept by its sender; one of a collective that is over is dropped
  (∀ (s : State) (m : CollMsg),
    (s.collOf m.key m.rank m.seq = none →
      exec (.doneNoticeArrival m) s = .next s ∧ exec (.collFinishedArrival m) s = .next s ∧ exec (.collAbortArrival m) s = .next s) ∧
    (∀ r n, s.collOf m.key m.rank m.seq = some (some r, n) →
      let p := s.coll m.key (some r) n
      let kept (q : CollPort) : State := { s with colls := (s.colls.filter fun x => !x.is m.key (some r) n) ++ [q] }
      ((∀ w, s.window? m.key = some w → s.isAway w = false) → exec (.doneNoticeArrival m) s = .next
        (kept { p with notices := Sparse.put p.notices m.rank m.count, digest := m.digest })) ∧
      exec (.collFinishedArrival m) s = .next
        (kept { p with finished := (p.finished.filter fun x => x != m.rank) ++ [m.rank], rejected := p.rejected || m.count != 0 }) ∧
      exec (.collAbortArrival m) s = .next (kept { CollPort.fresh m.key (some r) n with aborted := true }))) ∧
  ∀ (s : State) (w : Window) (num : Nat) (wk : Walker), s.window? w.key = some w → (∀ v ∈ s.windows, v.key = w.key → v = w) →
    s.isAway w = false → s.walkerOf w.key num = some wk →
    let d := wk.record.toNat
    let total := field 844 832 d
    let p := s.coll w.key none num
    let c := s.coreAt w.agent
    let joined (q : CollPort) : State := { s with colls := (s.colls.filter fun x => !x.is w.key none num) ++ [q] }
    -- the member's collective is over: its handle is complete with a status, the outcome stands in its pool, and its port forgets it
    let ended (t : State) (st : Nat) : Prop :=
      t.walkerOf w.key num = none ∧ (∃ v ∈ (t.coreAt w.agent).walkers, v.op = wk.op ∧ v.state = 3 ∧ v.status = st) ∧
      (t.coreAt w.agent).hnd = (c.finishRemote wk.op st).hnd ∧ (∀ q ∈ t.colls, q.is w.key none num = false) ∧
      (∀ r, r ≠ w.agent → t.coreAt r = s.coreAt r) ∧ t.hbm = s.hbm
    let told (t : State) (mk : Nat → WinKey → Instr) : Prop :=
      ∀ r g, r < total → s.memberBay w r = some g → s.cut w.key.bay g 0 = false → Sent t g fun b => mk r { w.key with bay := b }
    -- a turn of the walker, no page of its range being waited for: an iteration whose peer is outside the group transfers nothing; another sends its transfer; after the last one
    -- the token is done and every participant is told how many transfers it was sent
    (∀ o, w.agent = s.core.ref → s.core.op? wk.op = some o → (s.core.walkers.find? fun v => v.state == 1) = some wk →
      (∀ v ∈ s.core.walkers, v.redo = [] ∧ v.state ≠ 2) → wk.pages = [] →
      (wk.next < nestSize d → nestTransfer d wk.rank wk.next = none → (∀ e ∈ s.agenda, e.core = some s.core.ref → e.ev ≠ .walkerEmit) →
        exec .walkerEmit s = .next { s with
          core := { s.core with walkers := s.core.walkers.map fun v =>
            if v.key = w.key ∧ v.num = num ∧ v.state ≠ 3 then { v with next := v.next + 1 } else v }
          agenda := insertDue s.agenda ⟨s.mcyc.toNat + 1, some s.core.ref, .walkerEmit⟩ }) ∧
      (∀ peer g src dst, wk.next < nestSize d → nestTransfer d wk.rank wk.next = some (peer, src, dst) → s.memberBay w peer = some g →
        0 < s.core.room .c1 → s.leases = [] → s.underWay = [] →
        let len := field 887 864 d
        let sent (off : Nat) (data : List Byte) (part : Nat) (fixed : List (Option (BitVec 128))) : Prop :=
          ∃ t a, exec .walkerEmit s = .next t ∧
            t.walkerOf w.key num = some { wk with next := wk.next + 1, emitted := wk.emitted + 1, sent := bump wk.sent peer } ∧
            a.opc = 0x80 ∧ a.off = off ∧ a.len = len ∧ a.data = data ∧ a.part = part ∧ a.node * 8 + a.key.bay = g ∧
            a.org.core = s.core.ref ∧ a.org.op = wk.op ∧ a.coll.map (·.fixed) = some fixed ∧
            (s.barred a = false → if a.node = s.node.toNat then ∃ e ∈ t.agenda, e.ev = .remoteAccessArrival a
              else .remoteAccessArrival a ∈ t.outbox)
        (field 787 784 d = 0 → 0 ≤ dst → s.ownMissing w wk.refused src len = [] → ∀ bs, s.ownRange w wk.refused src len = some bs → sent dst.toNat bs 0 []) ∧
        (field 787 784 d = 1 → 0 ≤ src → 0 ≤ dst → dst + len ≤ w.len → sent src.toNat [] (2 + dst.toNat) []) ∧
        (field 787 784 d = 2 → 0 ≤ dst → s.ownMissing w wk.refused src len = [] → ∀ bs, s.ownRange w wk.refused src len = some bs →
          let n := dtyBytes (field 790 788 d)
          let x (i : Nat) : Nat := natOf ((bs.drop (n * i)).take n)
          sent dst.toNat bs 0 ((List.range (len / n)).map fun i =>
            if field 793 792 d = 0 then (toFix (field 790 788 d) (signedOf 8 (field 807 800 d)) (x i)).1 else some (BitVec.ofNat 128 (x i))))) ∧
      (nestSize d ≤ wk.next → Waitless s.core → ∃ t, exec .walkerEmit s = .next t ∧
        (∃ v, t.walkerOf w.key num = some v ∧ v.state = 2 ∧ v.noticed = true) ∧ t.core.tok = (s.core.tokenDone wk.op 0 0).tok ∧
        told t fun r key => .doneNoticeArrival ⟨key, w.rank, collDigest d, Sparse.get 0 wk.sent r, w.collSeq num r⟩)) ∧
    -- a notice joins the member's record; once every notice and transfer is in, the results are written; a digest that is not the
    -- member's own aborts
    (∀ m : CollMsg, m.key = w.key → s.collOf w.key m.rank m.seq = some (none, num) →
      let notices := Sparse.put p.notices m.rank m.count
      (m.digest = collDigest d →
        (∃ t, exec (.doneNoticeArrival m) s = .next t ∧ (m.rank, m.count) ∈ (t.coll w.key none num).notices) ∧
        (wk.noticed = false → (∃ r, r < total ∧ r ≠ m.rank ∧ ∀ n ∈ p.notices, n.1 ≠ r) →
          exec (.doneNoticeArrival m) s = .next (joined { p with notices := notices })) ∧
        (p.finalised = false → w.pool = true → wk.pages = [] → (∀ r, r < total → ∃ n ∈ notices, n.1 = r ∧ n.2 ≤ Sparse.get 0 p.got r) →
          let runs := joinRuns ((p.results d).map fun r => (r.1, bytesOf (dtyBytes (field 790 788 d)) r.2.1))
          ∃ t, exec (.doneNoticeArrival m) s = .next t ∧ (t.coll w.key none num).finalised = true ∧ (t.coll w.key none num).acc = [] ∧
            (t.coreAt w.agent).pool =
              (runs.foldl (fun (c : Core) r => c.poolWriteRemote (r.2.mapIdx fun i b => (w.base + r.1 + i, b))) c).pool)) ∧
      (m.digest ≠ collDigest d → wk.finishedSent = false → ∃ t, exec (.doneNoticeArrival m) s = .next t ∧ ended t 3 ∧
        told t fun r key => .collAbortArrival ⟨key, w.rank, [], 0, w.collSeq num r⟩)) ∧
    -- FINISHED: the member's collective ends when it has come from every participant, with 0x01 where any transfer was rejected
    (∀ m : CollMsg, m.key = w.key → s.collOf w.key m.rank m.seq = some (none, num) →
      ((∃ r, r < total ∧ r ≠ m.rank ∧ r ∉ p.finished) → exec (.collFinishedArrival m) s = .next
        (joined { p with finished := (p.finished.filter fun x => x != m.rank) ++ [m.rank], rejected := p.rejected || m.count != 0 })) ∧
      ((∀ r, r < total → r = m.rank ∨ r ∈ p.finished) → ∃ t, exec (.collFinishedArrival m) s = .next t ∧
        ended t (if wk.status = 6 then 6 else if wk.rejected = true ∨ p.rejected = true ∨ m.count ≠ 0 then 1 else 0))) ∧
    -- ABORT, and a deadline that passes before FINISHED was sent: the handle completes with 0x03
    (∀ m : CollMsg, m.key = w.key → s.collOf w.key m.rank m.seq = some (none, num) →
      ∃ t, exec (.collAbortArrival m) s = .next t ∧ ended t 3) ∧
    (∀ m : CollMsg, m.key = w.key → m.seq = num → wk.finishedSent = false → wk.relBeat + field 1023 992 d ≤ 2 * s.mcyc.toNat →
      ∃ t, exec (.collDeadline m) s = .next t ∧ ended t 3 ∧
        told t fun r key => .collAbortArrival ⟨key, w.rank, [], 0, w.collSeq num r⟩)



/-! ## The command processor -/

namespace Sys2Proof.Claims

open Sys2Proof.Machine

/-- The command processor takes entries (R381, R382, R390). -/
def Taking (s : State) : Prop :=
  s.sys.boot = .open_ ∧ s.sys.life ≠ .decommissioned ∧ s.cp.held = [] ∧ s.cp.nextSeq - 1 - s.cp.readIdx < 2 ^ 20

/-- One more record in the journal, with the next sequence number (R390). -/
def recorded (s : State) (kind : JKind) (st ctx : Nat) (tag : BitVec 32) (ref : Nat) (b : JBody) : State :=
  { s with cp := { s.cp with journal := s.cp.journal ++ [⟨s.cp.nextSeq, kind, st, ctx, tag, ref, b⟩], nextSeq := s.cp.nextSeq + 1 } }

/-- An entry accepted in this cc (R363). -/
def accepted (s : State) (opc : Nat) (c : Cmd) : State :=
  let t := recorded s .accepted 0 c.ctx.toNat c.tag 0 (.entry opc c)
  { t with cp := { t.cp with lastAccept := some s.mcyc.toNat } }

/-- A step of the module due `d` cc from now. -/
def dueIn (s : State) (d : Nat) (ev : Instr) : State := { s with agenda := insertDue s.agenda ⟨s.mcyc.toNat + d, none, ev⟩ }

/-- A number of bytes of module memory, least significant first (R2). -/
def memRead (s : State) (a n : Nat) : Nat := natOf ((List.range n).map fun i => s.memByte (a + i))

/-- No entry has been accepted in this cc yet (R363). -/
def Unspent (s : State) : Prop := s.cp.lastAccept ≠ some s.mcyc.toNat

/-- What every command undergoes as it is taken: `used` is the number of payload words it names (R361, R362, R363, R381). -/
def CheckedAsTaken (s : State) (c : Cmd) (i : Instr) (opc used : Nat) : Prop :=
  let unused := [c.w1, c.w2, c.w3, c.w4, c.w5, c.w6, c.w7].drop used
  (¬ Taking s → exec i s = .next s) ∧
  (Taking s → ¬ Unspent s → exec i s = .next { s with cp := { s.cp with late := s.cp.late ++ [(opc, c)] } }) ∧
  (Taking s → Unspent s → (c.res ≠ 0 ∨ ∃ w ∈ unused, w ≠ 0) → exec i s = .next (recorded s .refused 2 c.ctx.toNat c.tag 0 (.entry opc c))) ∧
  (Taking s → Unspent s → c.res = 0 → (∀ w ∈ unused, w = 0) → s.ctx? c.ctx.toNat = none →
    exec i s = .next (recorded s .refused 5 c.ctx.toNat c.tag 0 (.entry opc c)))

/-- An entry that passes the checks every command undergoes. -/
def Passes (s : State) (c : Cmd) (used : Nat) : Prop :=
  Taking s ∧ Unspent s ∧ c.res = 0 ∧ (∀ w ∈ [c.w1, c.w2, c.w3, c.w4, c.w5, c.w6, c.w7].drop used, w = 0)

/-- The core keeps everything but what its engines' TLBs hold. -/
def ButTlbs (s t : State) : Prop :=
  ∀ r, t.coreAt r = { s.coreAt r with eng0 := (t.coreAt r).eng0, eng1 := (t.coreAt r).eng1 }

/-- Leaves that meet no byte of a range. -/
def leavesApart (ls : List Leaf) (va len : Nat) : List Leaf :=
  ls.filter fun l => !(decide (0 < len) && decide (l.page * 2 ^ 16 < va + len) && decide (va < l.page * 2 ^ 16 + pageBytes (leafSz l.word)))

/-- A context with something changed. -/
def onContext (cs : List Context) (id : Nat) (f : Context → Context) : List Context := cs.map fun y => if y.id = id then f y else y

end Sys2Proof.Claims

/-- R361, R362, R363, R381: what every command undergoes as it is taken. Nothing is taken while the queues are closed or the journal is
full (that the state then stays as it is is the model's choice: log 20), and two entries are never accepted in one cc; a reserved bit or an
unused payload word refuses with status 2, an unknown context with status 5, in this order (the model's reading: log 57), each with one
record and no effect. -/
def Obligations.CommandsAreCheckedAsTheyAreTaken : Prop :=
  ∀ (s : State) (c : Cmd),
    CheckedAsTaken s c (.launch c) 0x01 1 ∧ CheckedAsTaken s c (.qcreate c) 0x02 4 ∧
    CheckedAsTaken s c (.qfree c) 0x03 1 ∧ CheckedAsTaken s c (.kill c) 0x04 1 ∧
    CheckedAsTaken s c (.mapPages c) 0x05 3 ∧ CheckedAsTaken s c (.inval c) 0x06 2 ∧
    CheckedAsTaken s c (.faultreply c) 0x07 2 ∧ CheckedAsTaken s c (.migrate c) 0x08 2 ∧
    CheckedAsTaken s c (.classtab c) 0x09 2 ∧ CheckedAsTaken s c (.yardreg c) 0x0A 4 ∧
    CheckedAsTaken s c (.relay c) 0x0B 1 ∧ CheckedAsTaken s c (.epoch c) 0x0C 1 ∧
    CheckedAsTaken s c (.rates c) 0x0D 2 ∧ CheckedAsTaken s c (.seal c) 0x0E 2 ∧
    CheckedAsTaken s c (.readRecord c) 0x0F 3 ∧ CheckedAsTaken s c (.stripeset c) 0x10 3

/-- R305, R353, R362, R364, R365, R369, R371, R376: an accepted LAUNCH, QCREATE, QFREE, KILL, CLASSTAB, RATES, STRIPESET or READ and its
effect. That a record is read or written at a flat address of module memory below 2^40 is the model's layout (log 5), and the order of a
LAUNCH's checks is its reading (log 58). -/
def Obligations.LaunchQueueAndTableCommands : Prop :=
  ∀ (s : State) (c : Cmd) (x : Context), s.ctx? c.ctx.toNat = some x →
    let seq := s.cp.nextSeq
    let ctx := c.ctx.toNat
    let n1 := c.w1.toNat
    let n2 := c.w2.toNat
    let refused (opc st : Nat) : State := recorded s .refused st ctx c.tag 0 (.entry opc c)
    (Passes s c 1 →
      (∀ st, s.launchOf c seq = .error st → st ≠ 0 → exec (.launch c) s = .next (refused 1 st)) ∧
      (∀ k, s.launchOf c seq = .ok k →
        exec (.launch c) s = .next (dueIn { accepted s 1 c with kernels := s.kernels ++ [k] } (2 ^ 20) (.agingTick seq)).schedule ∧
        (let r := memRead s n1 128
         k.seq = seq ∧ k.ctx = ctx ∧ k.tag = c.tag ∧ k.phase = .waiting ∧ k.cls = r / 2 ^ 544 % 8 ∧ k.tokens = r / 2 ^ 548 % 256 ∧
         k.kest0.toNat = r / 2 ^ 64 % 2 ^ 64 ∧ k.depA = r / 2 ^ 192 % 2 ^ 64 ∧ k.depB = r / 2 ^ 256 % 2 ^ 64))) ∧
    (Passes s c 4 → c.w2 = 0 → c.w3 = 0 → c.w4 = 0 → n1 / 2 ^ 20 % 2 ^ 12 = 0 → 0 < n1 / 2 ^ 32 → n1 / 2 ^ 32 ≤ 2 ^ 24 →
      s.queue? ctx (n1 % 2 ^ 16) = none →
      exec (.qcreate c) s = .next { accepted s 2 c with taskQueues := s.taskQueues ++
        [⟨ctx, n1 % 2 ^ 16, n1 / 2 ^ 16 % 8, c.w1.getLsbD 19, n1 / 2 ^ 32, BitVec.ofNat 64 (n1 / 2 ^ 32), 0, [], [], 0⟩] }) ∧
    (Passes s c 1 → n1 < 2 ^ 16 → (s.queue? ctx n1).isSome →
      (∀ k ∈ s.kernels, k.ctx = ctx → (k.phase = .waiting ∨ k.phase = .retired) ∨ ∀ b ∈ k.queues, b.qid ≠ n1) →
      exec (.qfree c) s = .next { accepted s 3 c with taskQueues := s.taskQueues.filter fun t => !(t.ctx == ctx && t.qid == n1) }) ∧
    (Passes s c 1 → ∀ k, s.kernel? n1 = some k → k.ctx = ctx → k.phase ≠ .retired → k.ending = none →
      ∃ t, exec (.kill c) s = .next t ∧ (∃ k', t.kernel? n1 = some k' ∧ k'.ending = some .killed) ∧
        (∀ r ∈ k.cores, (t.coreAt r).run = .stopped ∧ (t.coreAt r).mq = [] ∧ (t.coreAt r).triggers = []) ∧
        t.hbm = s.hbm ∧ t.cp = (accepted s 4 c).cp ∧ ⟨s.mcyc.toNat, none, .kernelRetirement k.seq⟩ ∈ t.agenda ∧
        ((∀ r ∈ k.cores, (s.coreAt r).stepsOut = 0) →
          t.agenda = insertDue s.agenda ⟨s.mcyc.toNat, none, .kernelRetirement k.seq⟩)) ∧
    (Passes s c 2 → n1 < 8 → n2 < 2 ^ 40 →
      exec (.classtab c) s = .next { accepted s 9 c with
        contexts := onContext s.contexts ctx fun y => { y with classes := Sparse.put y.classes n1 c.w2 } }) ∧
    (Passes s c 2 → n2 < 32 → n1 + 96 ≤ 2 ^ 40 →
      (∀ k ∈ s.kernels, k.ctx = ctx → k.phase = .waiting ∨ k.phase = .preempted ∨ k.phase = .retired) →
      exec (.rates c) s = .next { accepted s 0x0D c with
        contexts := onContext s.contexts ctx fun y => { y with rates := Sparse.setAll 0x3F800000 y.rates ((List.range 24).map fun i =>
          (n2 * 24 + i, BitVec.ofNat 32 (memRead s (n1 + 4 * i) 4))) } }) ∧
    (Passes s c 3 → 0 < n1 → n1 < 256 → stripeCountOk n2 = true → c.w3.toNat + 2 * n2 ≤ 2 ^ 40 →
      (∀ i < n2, memRead s (c.w3.toNat + 2 * i) 2 < 2 ^ 13) → (∀ l ∈ x.leaves, leafStripe l.word ≠ n1) →
      exec (.stripeset c) s = .next { accepted s 0x10 c with
        contexts := onContext s.contexts ctx fun y => { y with stripes := (y.stripes.filter fun t => t.num != n1) ++ [⟨n1, (List.range n2).map fun i =>
          let m := memRead s (c.w3.toNat + 2 * i) 2
          (m / 8, m % 8)⟩] } }) ∧
    (Passes s c 3 → ∀ bs, s.readRecord ctx n1 n2 = .ok bs → c.w3.toNat % 64 = 0 → c.w3.toNat + bs.length ≤ 2 ^ 40 → s.poison = [] →
      s.cp.nextSeq - s.cp.readIdx < 2 ^ 20 →
      exec (.readRecord c) s = .next (recorded { accepted s 0x0F c with
        hbm := Sparse.setAll 0 s.hbm (bs.mapIdx fun i b => (c.w3.toNat + i, b)) } .completion 0 ctx c.tag seq .empty)) ∧
    (∀ q, n1 = 5 → n2 < 2 ^ 16 → s.queue? ctx n2 = some q → s.readRecord ctx n1 n2 = .ok (bytesOf 32 (q.ovrn * 2 ^ 224 +
      q.fillTakes.length * 2 ^ 192 + q.freeTakes.length * 2 ^ 160 + q.cap * 2 ^ 128 + q.fill.toNat * 2 ^ 64 + q.free.toNat)))

/-- R275, R320, R325, R327, R377, R378, R380, R385: an accepted MAP, INVAL, FAULTREPLY, MIGRATE, SEAL, YARDREG, RELAY or EPOCH and how its
effect begins, with no access under way at a port. The model's choices: what MAP refuses for a region's sake (log 145), that leaves and TLBs
change at once (log 60), what frames hold that were last mapped under another key (log 72), where a forwarding table stands (log 141), and
the addresses of a RELAY record (log 5). Its readings: EPOCH of no region has status 5 (log 59), a region of no length status 2 (log 84). -/
def Obligations.PageAndYardCommands : Prop :=
  ∀ (s : State) (c : Cmd) (x : Context), s.ctx? c.ctx.toNat = some x →
    let seq := s.cp.nextSeq
    let ctx := c.ctx.toNat
    let va := c.w1.toNat
    let n2 := c.w2.toNat
    let n3 := c.w3.toNat
    let meets (e : Nat × Nat × Nat × Nat) (len : Nat) : Bool :=
      e.2.1 == ctx && (decide (0 < len) && decide (e.2.2.1 * 2 ^ 16 < va + len) && decide (va < e.2.2.1 * 2 ^ 16 + pageBytes e.2.2.2))
    let refused (opc st : Nat) : State := recorded s .refused st ctx c.tag 0 (.entry opc c)
    -- a yard page may not be weathered, and a page of a region stays a yard page in the slice of its home bay
    (Passes s c 3 → c.w2.getLsbD 63 = true → leafOk c.w2 = true → 0 < n3 →
      ((leafYard c.w2 = true ∧ leafWth c.w2 = true) ∨
       (∃ g ∈ s.regions, g.key.ctx = ctx ∧ 0 < g.len ∧ g.base < va + n3 * pageBytes (leafSz c.w2) ∧ va < g.base + g.len ∧
        (leafYard c.w2 = false ∨ leafStripe c.w2 ≠ 0 ∨ leafHome c.w2 ≠ g.home))) →
      exec (.mapPages c) s = .next (refused 5 2)) ∧
    (Passes s c 3 → (c.w2.getLsbD 63 = false ∨ leafOk c.w2 = true) → leafSz c.w2 ≠ 3 → 0 < n3 → n3 ≤ 4096 →
      let size := pageBytes (leafSz c.w2)
      va % size = 0 → va + n3 * size ≤ 2 ^ 57 → s.cp.migrations = [] → s.underWay = [] →
      (c.w2.getLsbD 63 = true → ¬ (leafYard c.w2 = true ∧ leafWth c.w2 = true) ∧
        ∀ g ∈ s.regions, g.key.ctx = ctx → (leafYard c.w2 = true ∧ leafStripe c.w2 = 0 ∧ leafHome c.w2 = g.home) ∨
          g.base + g.len ≤ va ∨ va + n3 * size ≤ g.base) →
      let word (i : Nat) : W64 := if leafStripe c.w2 = 0 then c.w2 + BitVec.ofNat 64 (i * size) else c.w2
      -- a page of a sealed range keeps SEAL
      let kept (y : Context) (i : Nat) : W64 :=
        if (word i).getLsbD 63 = true ∧ (∃ r ∈ y.sealed, 0 < r.2 ∧ r.1 < va + i * size + pageBytes (leafSz (word i)) ∧ va + i * size < r.1 + r.2)
        then word i ||| 0x80000000000000 else word i
      -- the frames that a valid leaf names, and those of them last mapped under another key
      let frames : List Nat := (List.range n3).flatMap fun i => if (word i).getLsbD 63 then s.framesOf x (word i) else []
      let lost (f : Nat) : Prop := f ∈ frames ∧ ∃ k ∈ s.sys.frameKeys, k.1 = f ∧ k.2 ≠ x.hbmKey
      ∃ t, exec (.mapPages c) s = .next t ∧ ButTlbs s t ∧ t = { accepted s 5 c with
        core := t.core, peers := t.peers, hbm := t.hbm, fresh := t.fresh
        sys := { s.sys with frameKeys := t.sys.frameKeys }
        dieTlb := s.dieTlb.filter fun e => !meets e (n3 * size)
        contexts := onContext s.contexts ctx fun y => { y with leaves := leavesApart y.leaves va (n3 * size) ++ (List.range n3).map fun i =>
          ⟨(va + i * size) / 2 ^ 16, kept y i⟩ } } ∧
        (∀ f ∈ frames, (f, x.hbmKey) ∈ t.sys.frameKeys) ∧ (∀ a, ¬ lost (a / 2 ^ 16) → t.memByte a = s.memByte a) ∧
        ((∀ f, ¬ lost f) → t.hbm = s.hbm ∧ t.fresh = s.fresh)) ∧
    (Passes s c 2 → va + n2 ≤ 2 ^ 57 → s.cp.migrations = [] → s.underWay = [] → (∀ j ∈ s.cp.invals, j.seq ≠ seq) →
      ∃ t, exec (.inval c) s = .next t ∧ ButTlbs s t ∧ t = { accepted s 6 c with
        core := t.core, peers := t.peers
        dieTlb := s.dieTlb.filter fun e => !meets e n2
        contexts := onContext s.contexts ctx fun y => { y with leaves := leavesApart y.leaves va n2 }
        cp := { (accepted s 6 c).cp with
          invals := s.cp.invals ++ [⟨seq, ctx, c.tag, true, 0, 0, va, n2, s.acceptedIn ctx va n2 fun _ => true⟩] }
        agenda := insertDue s.agenda ⟨s.mcyc.toNat + 1, none, .invalComplete seq⟩ }) ∧
    (Passes s c 2 → n2 < 2 → ∀ f ∈ x.faults, x.faults.find? (fun g => g.id == va) = some f → f.answered = false →
      s.coresOf ctx = [] → (∀ k ∈ s.kernels, k.ctx ≠ ctx) → (∀ w ∈ s.windows, w.key.ctx ≠ ctx ∧ s.ready w = false) →
      exec (.faultreply c) s = .next { accepted s 7 c with
        contexts := onContext s.contexts ctx fun y => { y with faults := y.faults.map fun g => if g.id = va then { g with answered := true } else g } }) ∧
    (Passes s c 2 → ∀ l, x.leaves.find? (fun l => l.page * 2 ^ 16 == va) = some l → leafOk l.word = true → leafOk c.w2 = true →
      leafYard l.word = false → leafYard c.w2 = false → leafSz l.word = leafSz c.w2 → leafMig l.word = false →
      exec (.migrate c) s = .next { accepted s 8 c with
        contexts := onContext s.contexts ctx fun y => { y with leaves := y.leaves.map fun m =>
          if m.page = va / 2 ^ 16 then { m with word := m.word ||| 0x40000000000000 } else m }
        cp := { (accepted s 8 c).cp with migrations := s.cp.migrations ++ [⟨seq, ctx, c.tag, true, 1, c.w2, va, pageBytes (leafSz c.w2),
          s.acceptedIn ctx va (pageBytes (leafSz c.w2)) fun o => o.stage == .moving⟩] }
        agenda := insertDue s.agenda ⟨s.mcyc.toNat + 1, none, .migrateComplete seq⟩ }) ∧
    (Passes s c 2 → ∀ home, va % 2 ^ 16 = 0 → n2 % 2 ^ 16 = 0 → 0 < n2 → va + n2 ≤ 2 ^ 57 →
      (∀ i < n2 / 2 ^ 16, ∃ w, x.leaf? (va + i * 2 ^ 16) = some w ∧ leafOk w = true ∧ leafStripe w = 0 ∧ leafHome w = home ∧
        leafYard w = false ∧ leafWth w = false) → s.underWay = [] →
      ∃ t, exec (.seal c) s = .next t ∧ ButTlbs s t ∧ t = { accepted s 0x0E c with
        core := t.core, peers := t.peers
        dieTlb := s.dieTlb.filter fun e => !meets e n2
        contexts := onContext s.contexts ctx fun y => { y with
          sealed := y.sealed ++ [(va, n2)]
          leaves := y.leaves.map fun l =>
            if l.page * 2 ^ 16 < va + n2 ∧ va < l.page * 2 ^ 16 + pageBytes (leafSz l.word) then { l with word := l.word ||| 0x80000000000000 } else l }
        cp := { (accepted s 0x0E c).cp with
          seals := s.cp.seals ++ [⟨seq, ctx, c.tag, true, 0, 0, va, n2, s.acceptedIn ctx va n2 fun o => o.outward⟩] }
        agenda := insertDue s.agenda ⟨s.mcyc.toNat + 1, none, .sealComplete seq⟩ }) ∧
    (Passes s c 4 → ∀ e, va % 2 ^ 16 = 0 → n2 % 2 ^ 16 = 0 → 0 < n2 → n2 ≤ 2 ^ 40 → n3 = 2 ^ e → 8 ≤ e → e ≤ 20 →
      ∀ rid home, rid < 16 → home < 8 → c.w4.toNat = rid + home * 2 ^ 8 → s.region? ⟨ctx, rid⟩ = none →
      (∀ i < n2 / 2 ^ 16, ∃ w, x.leaf? (va + i * 2 ^ 16) = some w ∧ leafOk w = true ∧ leafStripe w = 0 ∧ leafHome w = home ∧
        leafYard w = true ∧ leafWth w = false) →
      (∀ g ∈ s.regions, g.key.ctx = ctx → g.base + g.len ≤ va ∨ va + n2 ≤ g.base) →
      (∀ area, Config.tableArea ctx rid seq = some area → exec (.yardreg c) s = .next { accepted s 0x0A c with
        regions := s.regions ++ [⟨⟨ctx, rid⟩, va, n2, 0, 0, n3, home, 0, [], [], area⟩] }) ∧
      (Config.tableArea ctx rid seq = none → exec (.yardreg c) s = .next (refused 0x0A 4))) ∧
    (Passes s c 1 → ∀ n rid g, va + 16 + 16 * n ≤ 2 ^ 40 → memRead s va 16 = n + rid * 2 ^ 16 → 0 < n → n ≤ 256 → rid < 16 →
      s.region? ⟨ctx, rid⟩ = some g →
      let job : YardJob := .batch ⟨seq, c.tag, (List.range n).map fun i => (memRead s (va + 16 + 16 * i) 8, memRead s (va + 24 + 16 * i) 8), none, [], [], []⟩
      let t : State := { accepted s 0x0B c with
        regions := s.regions.map fun g => if g.key = ⟨ctx, rid⟩ then { g with jobs := g.jobs ++ [job] } else g }
      (g.jobs = [] → exec (.relay c) s = .next (dueIn t 0 (.relayBatchTurn ⟨ctx, rid⟩))) ∧ (g.jobs ≠ [] → exec (.relay c) s = .next t)) ∧
    (Passes s c 1 → ∀ g, va < 16 → s.region? ⟨ctx, va⟩ = some g →
      let t : State := { accepted s 0x0C c with
        regions := s.regions.map fun g => if g.key = ⟨ctx, va⟩ then { g with jobs := g.jobs ++ [.advance seq c.tag] } else g }
      (g.jobs = [] → exec (.epoch c) s = .next (dueIn t 0 (.epochAdvance ⟨ctx, va⟩))) ∧ (g.jobs ≠ [] → exec (.epoch c) s = .next t))

/-- R275, R360, R371, R377, R383, R384, R385, R390: the host's writes to a ring and its read index, a context's creation and end, and the
completion of INVAL, MIGRATE and SEAL once nothing accepted before is left. The model's choices: how a ring comes to be (log 56), what the
frames of a lost key read as (log 72), what a context's end takes with it (log 79) and where a SEAL's bytes lie (log 5); when a migrating page
is copied is its reading (log 61), and so is what it checks again after a migration (log 145). -/
def Obligations.QueueJournalAndContextEvents : Prop :=
  ∀ (s : State),
    (∀ (n addr k tail : Nat), s.sys.boot = .open_ → n < 16 → 4 ≤ k → k ≤ 12 →
      let on (r : Ring) : State := { s with cp := { s.cp with rings := Sparse.put s.cp.rings n r } }
      (s.cp.rings.find? (fun r => r.1 == n) = none → exec (.submissionQueueTailWrite n addr k tail) s = .next (on ⟨addr, 2 ^ k, 0, tail % 2 ^ k⟩)) ∧
      (∀ r, s.cp.rings.find? (fun r => r.1 == n) = some (n, r) →
        exec (.submissionQueueTailWrite n addr k tail) s = .next (on { r with tail := tail % r.size }))) ∧
    (∀ upTo, s.cp.readIdx ≤ upTo → upTo < s.cp.nextSeq → s.cp.nextSeq - 1 - upTo + s.cp.held.length ≤ 2 ^ 20 →
      exec (.journalReadIndexAdvance upTo) s = .next { s with cp := { s.cp with
        readIdx := upTo, held := [], nextSeq := s.cp.nextSeq + s.cp.held.length
        journal := s.cp.journal ++ s.cp.held.mapIdx fun i r => { r with seq := s.cp.nextSeq + i } } }) ∧
    (∀ (id : Nat) (p : W64), s.sys.boot = .open_ → s.sys.life ≠ .decommissioned → id < 2 ^ 16 → p.toNat < 2 ^ 10 → s.ctx? id = none →
      s.sys.keySlots < 512 →
      let keyed := p.getLsbD 8 || p.getLsbD 9
      exec (.contextCreate id p) s = .next { s with
        contexts := s.contexts ++ [Context.fresh id (p.getLsbD 9) (p.getLsbD 8) (p.getLsbD 0 && s.sys.life != .deployed)
          (if keyed then some ⟨s.sys.nextKey, Config.freshKey s.sys.nextKey, Config.freshLinkKey s.sys.nextKey⟩ else none)]
        sys := { s.sys with
          policy := Sparse.set 0x100 s.sys.policy id p
          keySlots := s.sys.keySlots + keyed.toNat, nextKey := s.sys.nextKey + keyed.toNat } }) ∧
    (∀ (id : Nat) (x : Context), s.ctx? id = some x → (∀ k ∈ s.kernels, k.ctx = id → k.phase = .retired) →
      ∃ t, exec (.contextDestroy id) s = .next t ∧ t.contexts = s.contexts.filter (fun y => y.id != id) ∧
        t.regions = s.regions.filter (fun g => g.key.ctx != id) ∧ t.taskQueues = s.taskQueues.filter (fun q => q.ctx != id) ∧
        t.sys.keySlots = s.sys.keySlots - x.key.isSome.toNat ∧ t.core = s.core ∧ t.cp.journal = s.cp.journal ∧
        (∀ i, i ≠ id → Sparse.get 0x100 t.sys.policy i = Sparse.get 0x100 s.sys.policy i) ∧ Sparse.get 0x100 t.sys.policy id = 0x100 ∧
        -- the frames last mapped under its key hold nothing any more
        let under (a : Nat) : Prop := x.menc = true ∧ ∃ k, x.key = some k ∧ (a / 2 ^ 16, k.num + 1) ∈ s.sys.frameKeys
        (∀ a, ¬ under a → t.memByte a = s.memByte a) ∧ (∀ a, under a → t.memByte a = Config.lostByte s.fresh a)) ∧
    (∀ (seq : Nat) (j : PageJob), Taking s → j.waits = [] → j.seq = seq →
      let less (l : List PageJob) : List PageJob := l.filter fun i => i.seq != seq
      (s.cp.invals.find? (fun i => i.seq == seq) = some j → j.begun = true →
        exec (.invalComplete seq) s = .next (recorded { s with cp := { s.cp with invals := less s.cp.invals } } .completion 0 j.ctx j.tag seq .empty)) ∧
      (s.cp.seals.find? (fun i => i.seq == seq) = some j → s.poison = [] →
        exec (.sealComplete seq) s = .next (recorded { s with
          cp := { s.cp with seals := less s.cp.seals }
          sys := { s.sys with seals := s.sys.seals ++ [⟨j.ctx, j.va, j.len, Config.sha512 ((List.range j.len).map fun i =>
            match s.phys? j.ctx (j.va + i) with | some a => s.memByte a | none => 0)⟩] } } .completion 0 j.ctx j.tag seq .empty)) ∧
      (∀ x old, s.cp.migrations = [j] → s.ctx? j.ctx = some x → x.leaf? j.va = some old → s.cp.maps = [] → s.cp.invals = [] →
        s.coresOf j.ctx = [] → s.windows = [] → s.poison = [] → s.leases = [] →
        let node := s.node.toNat
        let moved := ((x.pageAddrs node j.va j.len old).zip (x.pageAddrs node j.va j.len j.leaf)).filterMap fun p =>
          match p with | (some a, some b) => some (b, s.memByte a) | _ => none
        let frames := if j.leaf.getLsbD 63 then s.framesOf x j.leaf else []
        (∀ k ∈ s.sys.frameKeys, k.1 ∈ frames → k.2 = x.hbmKey) →
        exec (.migrateComplete seq) s = .next (recorded { s with
          hbm := Sparse.setAll 0 s.hbm moved
          sys := { s.sys with frameKeys := if j.leaf.getLsbD 63 then
            (s.sys.frameKeys.filter fun k => !frames.contains k.1) ++ frames.map fun f => (f, x.hbmKey) else s.sys.frameKeys }
          dieTlb := s.dieTlb.filter fun e =>
            !(e.2.1 == j.ctx && (decide (0 < j.len) && decide (e.2.2.1 * 2 ^ 16 < j.va + j.len) &&
              decide (j.va < e.2.2.1 * 2 ^ 16 + pageBytes e.2.2.2)))
          contexts := onContext s.contexts j.ctx fun y => { y with leaves := y.leaves.map fun l =>
            if l.page = j.va / 2 ^ 16 then { l with word := y.keepSeal j.va (j.leaf &&& ~~~0x40000000000000#64) } else l }
          cp := { s.cp with migrations := [] } } .completion 0 j.ctx j.tag seq .empty)))

/-! ## The life of a kernel -/

/-- R13, R42, R214, R351, R352, R354, R355, R357, R367, R368, R372, R391: the events of a kernel that has the module to itself. Times are
due when they come; what is free of them (the wake of banks) is bounded below only. The model's choices in it: an aging tick of the same
cc comes before the horizon (log 106), where the first record is kept (log 154), a rollback of a core that TRET has sent back takes
the copies of that issue (log 173), and a kernel that halts waits for a batch of the relay engine that serves an access (log 165). So are
where a stopped copy stands (log 67), that a checkpoint waits for entries of circuits (log 64), which trace a resumed core goes on with
(log 68), what makes a launch wait (log 170), and that a killed kernel retires once its stores are visible (log 85). -/
def Obligations.KernelLifeEvents : Prop :=
  ∀ (s : State) (k : Kernel), s.kernels = [k] →
    let now := s.mcyc.toNat
    let ref := s.core.ref
    let only (k' : Kernel) : State := { s with kernels := [k'] }
    (∀ b r, k.ending = none → k.phase = .waiting → s.depState k.depA = some true → s.depState k.depB = some true →
      s.placeFor k = some [(b, [r])] →
      ∃ t d, exec (.kernelBind k.seq) s = .next t ∧ t.kernels = [{ k with
          phase := .bound, cores := [r], ords := [b], boundAt := s.mcyc, decideFrom := 1 }] ∧
        now + 1 ≤ d ∧ t.agenda = insertDue s.agenda ⟨d, none, .kernelStart k.seq⟩ ∧ t.hbm = s.hbm ∧
        (let c := t.coreAt r
         c.ref = r ∧ c.kernel = k.seq ∧ c.run = .loaded ∧ c.pos = ⟨k.img.entry.getD 0, 0⟩ ∧ c.mode = false ∧ c.rs 1 = 0 ∧
         c.rs 2 = BitVec.ofNat 64 k.img.cores ∧ c.rs 3 = 0 ∧ (∀ n, 3 < n → c.rs n = 0) ∧ (∀ n, 0 < n → c.rp n = false) ∧ c.h = [] ∧ c.tok = [] ∧
         c.hnd = [] ∧ c.kest = k.kest0 ∧ c.wdog = BitVec.ofNat 32 k.wdog ∧ c.partword = k.img.part ∧ c.pend = [] ∧ c.flags = {})) ∧
    (k.ending = none → k.started = false → k.placed = true → k.cores = [ref] → s.core.run = .loaded →
      exec (.kernelStart k.seq) s = .next { only { k with started := true } with
        core := ({ s.core with run := .running, notBefore := s.core.clk } : Core).prefetch k }) ∧
    (k.ending = none → k.phase = .draining → k.horizon ≤ now → (∀ e ∈ s.agenda, e.ages now = false) →
      exec (.drainHorizonExpiry k.seq) s = .next (only { k with phase := .bound, decideFrom := 1 })) ∧
    (k.ending = none → k.phase = .checkpointing → k.horizon ≤ now → k.cores = [ref] → s.core.run ≠ .stopped → s.core.run ≠ .halted →
      (s.core.mode = true → exec (.checkpointBoundExpiry k.seq) s =
        .next { only { k with phase := .bound, decideFrom := 1 } with core := { s.core with stopReq := false } }) ∧
      (s.core.mode = false → s.entryInFlight k = false → ∃ t, exec (.checkpointBoundExpiry k.seq) s = .next t ∧
        (let d := s.core.settleLeft.renew
         (s.core.left = [] → s.core.reissue = false → d = s.core) ∧ t.core.run = .stopped ∧ t.core.pos = d.brace.pos ∧ t.core.reissue = true ∧
         t.core.s = d.brace.s ∧ t.core.p = d.brace.p ∧ t.core.a = d.brace.a ∧ t.core.h = d.brace.h ∧ t.core.pend = [] ∧ t.core.left = [] ∧
         t.core.log = d.log.filter (fun r => r.ivl != d.interval)) ∧
        t = { only { k with late := [ref] } with core := t.core, agenda := insertDue s.agenda ⟨now, none, .checkpointSave k.seq true⟩ })) ∧
    (k.ending = none → k.phase = .checkpointing → k.cores = [ref] → (s.core.run = .stopped ∨ s.core.run = .halted) →
      (∃ t k' r, exec (.checkpointSave k.seq false) s = .next t ∧ t.kernels = [k'] ∧ k'.ending = some .faulted ∧ k'.record = some r ∧ r.cause = 0x106) ∧
      (s.core.owes = false → (∀ o ∈ s.core.ops, o.stage = .moving → 0x40 ≤ o.opc ∧ o.opc ≠ 0x43 ∧ o.opc ≠ 0x44) →
        ∃ t k' x, exec (.checkpointSave k.seq true) s = .next t ∧ t.kernels = [k'] ∧ k'.phase = .preempted ∧ k'.cores = [] ∧
        (let c := x.core
         k'.saved = [x] ∧ x.replies = [] ∧ (k.saved = [] → x.addr = 2 ^ 36) ∧ k'.age = 0 ∧ c.s = s.core.s ∧ c.p = s.core.p ∧ c.q = s.core.q ∧ c.a = s.core.a ∧ c.h = s.core.h ∧ c.lc = s.core.lc ∧
        c.fm = s.core.fm ∧ c.tok = s.core.tok ∧ c.hnd = s.core.hnd ∧ c.v = s.core.v ∧ c.z = s.core.z ∧ c.pool = s.core.pool ∧ c.pos = s.core.pos) ∧
        (let h := x.header
         h.kernel = k.seq ∧ h.core = s.core.idx ∧ h.coreid = ref % 192 ∧ h.part = s.core.partword ∧
        h.interval = s.core.interval ∧ h.mcyc = s.mcyc ∧ (h.cause = .halted ↔ s.core.run = .halted) ∧
        (s.core.run = .stopped → (h.cause = .bound ↔ ref ∈ k.late))) ∧
        t.core.kernel = 0 ∧ t.core.run = .unbound ∧ t.core.pool = s.core.pool ∧ t.core.s = s.core.s ∧ t.hbm = s.hbm)) ∧
    (∀ b r x, k.ending = none → k.phase = .preempted → k.saved = [r] → s.placeFor k = some [(b, [ref])] → r.replies = [] →
      r.core.triggers = [] → (∀ w ∈ r.core.walkers, w.state = 3) → (∀ v ∈ s.windows, v.canClose = false ∧ v.closing = none) →
      s.ctx? k.ctx = some x → x.backlog = [] →
      let c := r.core
      ∃ t k', exec (.resume k.seq) s = .next t ∧ t.kernels = [k'] ∧ k'.phase = .bound ∧ k'.cores = [ref] ∧ k'.saved = [] ∧
        t.core.ref = ref ∧ t.core.s = c.s ∧ t.core.p = c.p ∧ t.core.q = c.q ∧ t.core.a = c.a ∧ t.core.h = c.h ∧ t.core.lc = c.lc ∧ t.core.fm = c.fm ∧
        t.core.tok = c.tok ∧ t.core.hnd = c.hnd ∧ t.core.v = c.v ∧ t.core.z = c.z ∧ t.core.pool = c.pool ∧ t.core.pos = c.pos ∧
        t.core.reissue = c.reissue ∧ t.core.brace = c.brace ∧ t.core.mode = c.mode ∧
        t.core.run = (if c.run = .halted then .halted else .running) ∧ t.hbm = s.hbm) ∧
    (k.ending = none → k.phase = .waiting ∨ k.phase = .preempted → k.ageAt = now → s.depState k.depA = none → k.depB = 0 →
      exec (.agingTick k.seq) s = .next { only { k with age := min 224 (k.age + 1), tokens := min 255 (k.tokens + 1), ageAt := now + 2 ^ 20 } with
        agenda := insertDue s.agenda ⟨now + 2 ^ 20, none, .agingTick k.seq⟩ }) ∧
    (∀ g ∈ s.regions, ∀ b, g.key.ctx = k.ctx → g.batch? = some b → b.demand ≠ [] → (b.step = some .copy ∨ b.step = some .finish) → k.ending = none →
      k.placed = true → k.cores = [ref] → k.saved = [] → s.core.run = .halted →
      exec (.kernelRetirement k.seq) s = .next (dueIn s 1 (.kernelRetirement k.seq))) ∧
    (∀ how, k.placed = true → k.cores = [ref] → k.saved = [] → k.record = none → s.core.storesLeft = false →
      (∀ g ∈ s.regions, ∀ b, g.key.ctx = k.ctx → g.batch? = some b → b.demand = []) → s.windows = [] → Taking s →
      (∀ g ∈ k.ords, g / 8 = s.node.toNat) → s.toReplay k = [] →
      (k.ending = some how ∨ (k.ending = none ∧ how = .halted ∧ s.core.run = .halted)) →
      ∃ t stalls unaw uncov first, exec (.kernelRetirement k.seq) s = .next t ∧
        t.kernels = [{ k with phase := .retired, cores := [], saved := [] }] ∧
        t.cp = (recorded s .completion 0 k.ctx k.tag k.seq (.kernelEnd stalls unaw uncov first 0 s.mcyc k.boundAt how)).cp ∧
        unaw = min s.core.unaw (2 ^ 32 - 1) ∧ uncov = min s.core.uncov (2 ^ 32 - 1) ∧ first = s.core.firstErr ∧
        (∀ i, 1 ≤ i → i ≤ 9 → (i, min (Sparse.get 0 s.core.stalls i) (2 ^ 32 - 1)) ∈ stalls) ∧
        t.core.kernel = 0 ∧ t.core.run = .unbound ∧ t.core.trace.records = s.core.trace.records ∧ t.core.s = s.core.s ∧ t.core.a = s.core.a ∧
        t.core.v = s.core.v ∧ t.core.z = s.core.z ∧ t.core.pool = s.core.pool ∧
        t.counters = s.counters.filter (fun c => c.kernel != k.seq) ∧ t.hbm = s.hbm ∧ t.agenda = s.agenda)

/-! ## The yard and the sweeper -/

namespace Sys2Proof.Claims

open Sys2Proof.Machine

/-- A word that holds a reference into a region, its address resolved and its epoch set; any other word as it is (R327). -/
def healedWord (g : Region) (n : Nat) (w : W64) : W64 :=
  let at_ := w.toNat / 16 % 2 ^ 53 * 16
  let found : Nat := match g.table.find? fun e => e.src == at_ with | some e => e.tgt | none => at_
  if w = 0 ∨ 2 ^ 57 ≤ w.toNat ∨ at_ < g.base ∨ g.base + g.len ≤ at_ then w
  else BitVec.ofNat 64 (found / 16 % 2 ^ 53 * 16 + w.toNat / 4 % 4 * 4 + n % 4)

/-- Some bytes with the 8-byte words at some places healed, in turn. -/
def wordsHealed (g : Region) (n : Nat) (keys : List Nat) (bytes : Nat → Byte) : Nat → Byte :=
  keys.foldl (fun m key p =>
    if key ≤ p ∧ p < key + 8 then (bytesOf 8 (healedWord g n (BitVec.ofNat 64 (natOf ((List.range 8).map fun i => m (key + i))))).toNat).getD (p - key) 0
    else m p) bytes

/-- What an advance makes of a core: its h registers, their brace copies and what is about to land in them from other operations than an
HLD, its root ranges, and their words in the granule records of its log; all else stays (R327). -/
def CoreHealed (g : Region) (n : Nat) (roots : List RootRange) (c d : Core) : Prop :=
  let regs (l : List (Nat × W64)) : List (Nat × W64) := l.map fun kv => (kv.1, healedWord g n kv.2)
  let landing (p : Pending) : Pending := { p with dst := p.dst.map fun x => match x with | .h m w => .h m (healedWord g n w) | x => x }
  let keys := roots.flatMap fun r => (List.range (r.len / 8)).filterMap fun i => c.place (r.off + 8 * i)
  d = { c with h := regs c.h, brace := { c.brace with h := regs c.brace.h }, pend := c.pend.map landing, left := c.left.map landing,
               pool := d.pool, log := d.log } ∧
  (∀ p, Sparse.get 0 d.pool p = wordsHealed g n keys (Sparse.get 0 c.pool) p) ∧ d.log.length = c.log.length ∧
  ∀ x ∈ c.log.zip d.log, match x.1 with
    | .granule i m old => ∃ new, x.2 = .granule i m new ∧
        ∀ p, Sparse.get 0 new p = wordsHealed g n (keys.filter fun key => key / 512 == m) (Sparse.get 0 old) p
    | l => x.2 = l

end Sys2Proof.Claims

/-- R320, R324, R325, R326, R327: the relay engine over a region with one job, with no burst poisoned and no lease out. The model's
choices in it: a block's copy takes 220 cc at least (log 143) and a free time more (log 66), and the order of the checks of a batch (log 53) and the widening of the
window (log 99) are readings. -/
def Obligations.RelayEngineEvents : Prop :=
  ∀ (s : State) (g : Region) (b : Batch), s.regions = [g] → s.poison = [] → s.leases = [] →
    let now := s.mcyc.toNat
    let key := g.key
    let jobs (l : List YardJob) : State := { s with regions := [{ g with jobs := l }] }
    (g.jobs = [.batch b] →
      (b.step = none →
        (∀ i st, s.batchRefusal g b = some (i, st) → Taking s →
          exec (.relayBatchTurn key) s = .next (recorded (jobs []) .relay st key.ctx b.tag b.seq (.relay key.rid i 0))) ∧
        (∀ src dst a, s.batchRefusal g b = none → b.moves = [(src, dst)] → s.phys? key.ctx src = some a → s.coresOf key.ctx = [] →
          let n := 16 * natOf ((List.range 3).map fun i => s.memByte (a + i))
          let on (skip : Bool) : YardJob := .batch { b with step := some .copy, active := [⟨src, dst, n, skip, []⟩], acks := [] }
          (s.memByte (a + 6) ≠ 0 → exec (.relayBatchTurn key) s = .next (dueIn (jobs [on true]) 220 (.relayCopy key))) ∧
          (s.memByte (a + 6) = 0 → exec (.relayBatchTurn key) s = .next (dueIn { s with
            hbm := Sparse.set 0 s.hbm (a + 7) 2
            regions := [{ g with
              jobs := [on false]
              table := (g.table.map fun e => if e.tgt = src then { e with tgt := dst } else e) ++ [⟨src, dst, g.epoch⟩]
              rwlo := if g.rwhi ≤ g.rwlo then src else min g.rwlo src
              rwhi := if g.rwhi ≤ g.rwlo then src + n else max g.rwhi (src + n) }] } 220 (.relayCopy key))))) ∧
      (∀ core u ids, b.step = some .fence → b.acks = [(core, (match u with | .c0 => 0 | .c1 => 1), ids)] →
        (core ∉ s.coresOf key.ctx → exec (.flipFenceAck key core u) s =
          .next (dueIn (jobs [.batch { b with acks := [], step := some .copy }]) 220 (.relayCopy key))) ∧
        (core ∈ s.coresOf key.ctx → (∃ id ∈ ids, ∃ o, (s.coreAt core).op? id = some o ∧ o.stage ≠ .localDone) →
          exec (.flipFenceAck key core u) s = .next (dueIn s 1 (.flipFenceAck key core u)))) ∧
      (∀ m : Move, b.step = some .copy → b.active = [m] → m.skipped = false → b.demand = [] →
        ((∀ i < (m.size + 511) / 512, i ∈ m.copied) →
          exec (.relayCopy key) s = .next (dueIn (jobs [.batch { b with step := some .finish }]) 0 (.relayFinish key))) ∧
        (∀ i (A B : Nat → Nat), i < (m.size + 511) / 512 → i ∉ m.copied → (∀ j < i, j ∈ m.copied) →
          (∀ j < 512, s.phys? key.ctx (m.src + 512 * i + j) = some (A j) ∧ s.phys? key.ctx (m.dst + 512 * i + j) = some (B j)) →
          exec (.relayCopy key) s = .next { s with
            fresh := s.fresh + 1
            hbm := Sparse.setAll 0 s.hbm ((List.range (min 512 (m.size - 512 * i))).map fun j =>
              (B j, if i = 0 ∧ j = 6 then 0 else if i = 0 ∧ j = 7 then 1 else s.memByte (A j)))
            regions := [{ g with jobs := [.batch { b with active := [{ m with copied := m.copied ++ [i] }] }] }]
            agenda := insertDue s.agenda ⟨now + (220 + Config.work s.fresh), none, .relayCopy key⟩ })) ∧
      (∀ (m : Move) a, b.step = some .finish → b.active = [m] → m.skipped = false → s.phys? key.ctx m.src = some a → Taking s →
        exec (.relayFinish key) s = .next (recorded { s with
          hbm := Sparse.set 0 s.hbm (a + 7) 3, regions := [{ g with jobs := [] }] } .relay 0 key.ctx b.tag b.seq (.relay key.rid 1 0)))) ∧
    (∀ seq tag, g.jobs = [.advance seq tag] → Taking s →
      let n := (g.epoch + 1) % 4
      let t : State := { s with regions := [{ g with epoch := n, rwlo := 0, rwhi := 0, jobs := [] }] }
      let told (t : State) : State := recorded t .completion 0 key.ctx tag seq .empty
      -- no entry is released
      ((∀ e ∈ g.table, e.bep ≠ (n + 2) % 4) →
        (s.kernels = [] → exec (.epochAdvance key) s = .next (told t)) ∧
        (∀ k, s.kernels = [k] → k.ctx = key.ctx → k.phase = .bound → k.cores = [s.core.ref] →
          ∃ d, CoreHealed g n k.roots s.core d ∧ exec (.epochAdvance key) s = .next (told { t with core := d })) ∧
        (∀ k r, s.kernels = [k] → k.ctx = key.ctx → k.phase = .preempted → k.saved = [r] →
          ∃ d, CoreHealed g n k.roots r.core d ∧
            exec (.epochAdvance key) s = .next (told { t with kernels := [{ k with saved := [{ r with core := d }] }] }))) ∧
      -- one is: its source range is filled with zeros
      (∀ e a (A : Nat → Nat), g.table.filter (fun x => x.bep == (n + 2) % 4) = [e] → s.kernels = [] → s.phys? key.ctx e.src = some a →
        let len := 16 * natOf ((List.range 3).map fun i => s.memByte (a + i))
        (∀ j < len, s.phys? key.ctx (e.src + j) = some (A j)) →
        exec (.epochAdvance key) s = .next (told { t with
          hbm := Sparse.setAll 0 s.hbm ((List.range len).map fun j => (A j, 0))
          regions := [{ g with epoch := n, rwlo := 0, rwhi := 0, jobs := [], table := g.table.filter fun x => x.bep != (n + 2) % 4 }] })))

/-- R311, R312, R313, R388: a sweep pass and its line steps. While one runs, at most one further pass is due; a line's step leaves the line,
restamps a zero-line, makes a zero-line of it where its factor is 0, or rewrites its values by their factor; a line with a poisoned burst
is left, and so is one that the sweep no longer covers. Which of the recent advances the sweeper sees is free (log 36), and that a line is
treated in one step is the model's choice (log 75); which memory a pass covers (log 74) and when LAG counts (log 76) are readings. -/
def Obligations.SweeperEvents : Prop :=
  ∀ (s : State) (x : Context) (bay : Nat), s.ctx? x.id = some x →
    let now := s.mcyc.toNat
    let sweeping (p : Sweep) : State :=
      { s with contexts := onContext s.contexts x.id fun y => { y with sweeps := y.sweeps.filter (fun q => q.bay != bay) ++ [p] } }
    (∀ p, x.sweep? bay = some p → p.running = true → exec (.sweepPassStart x.id bay) s = .next (sweeping { p with due := true })) ∧
    (∀ l rest, x.sweep? bay = none → s.weathered x bay = l :: rest →
      let t := sweeping ⟨bay, l :: rest, true, false⟩
      exec (.sweepPassStart x.id bay) s = .next { t with
        fresh := s.fresh + 1, agenda := insertDue s.agenda ⟨now + (Config.work s.fresh + 1), none, .sweepLineStep x.id bay⟩ }) ∧
    (∀ p line rest, x.sweep? bay = some p → p.running = true → p.lines = line :: rest →
      let step := x.step - unseen (Core.blank 1536) now s.fresh x.recent
      let a := line * 128
      let l := (List.range 128).map fun i => s.memByte (a + i)
      let h := numberAt l 0 4
      let fmt := h / 2 ^ 29 % 4
      let age := ageTaken step h
      let f := factorOf x age (h / 2 ^ 24 % 32)
      let hdr := fmt * 2 ^ 29 + h / 2 ^ 24 % 32 * 2 ^ 24 + step.toNat % 2 ^ 24
      let left : Bool := decide (2 ≤ fmt) || decide (age ≤ 2 ^ 22)
      let v := Sparse.get {} x.weathering bay
      -- where the pass stands after the line
      let on (t : State) (y : Context) : Prop := t.ctx? x.id = some y ∧ t.core = s.core ∧
        (rest ≠ [] → y.sweep? bay = some { p with lines := rest }) ∧ (rest = [] → p.due = false → y.sweep? bay = some ⟨bay, [], false, false⟩)
      let weather (y : Context) : Weathering := Sparse.get {} y.weathering bay
      (2 * line ∈ s.poison ∨ 2 * line + 1 ∈ s.poison ∨ line ∉ s.weathered x bay → ∃ t y, exec (.sweepLineStep x.id bay) s = .next t ∧ on t y ∧
        t.hbm = s.hbm ∧ (rest ≠ [] ∨ p.due = false → y.weathering = x.weathering)) ∧
      (line ∈ s.weathered x bay → 2 * line ∉ s.poison → 2 * line + 1 ∉ s.poison → s.leases = [] → s.underWay = [] → v.malformed < 2 ^ 32 →
        ∃ t y, exec (.sweepLineStep x.id bay) s = .next t ∧ on t y ∧
          (left = true → t.hbm = s.hbm) ∧
          (left = false → ∃ out, t.hbm = Sparse.setAll 0 s.hbm (out.mapIdx fun i b => (a + i, b)) ∧
            (2 ^ 31 ≤ h → out = bytesOf 4 (2 ^ 31 + hdr) ++ l.drop 4) ∧
            (h < 2 ^ 31 → f = 0 → IsLine out (2 ^ 31 + hdr) fmt fun _ => 0) ∧
            (h < 2 ^ 31 → f ≠ 0 → IsLine out hdr fmt fun e => inFormat fmt (product32 (valueAt l fmt e) f))) ∧
          (weather y).swept = v.swept + (if left = false ∧ h < 2 ^ 31 then 1 else 0) ∧
          (weather y).zeroed = v.zeroed + (if left = false ∧ h < 2 ^ 31 ∧ f = 0 then 1 else 0) ∧
          (weather y).stahead = v.stahead + (if fmt < 2 ∧ h < 2 ^ 31 ∧ 2 ^ 23 ≤ rawAge step h then 1 else 0) ∧
          (weather y).malformed = (if 2 ≤ fmt then min (v.malformed + 1) (2 ^ 32 - 1) else v.malformed) ∧
          (weather y).lag = (if rest = [] ∧ p.due = true then min (v.lag + 1) 65535 else v.lag))) ∧
    (∀ (step : W64) (l : List Byte), let h := natOf (l.take 4)
      h / 2 ^ 29 % 4 < 2 → (step.toNat + 2 ^ 24 - h % 2 ^ 24) % 2 ^ 24 ≤ 2 ^ 22 → (x.sweepLine step l).1 = none)

/-! ## Boot, life-cycle, security and errors -/

/-- R217, R381, R382, R387: the steps of boot, the bundles streamed to a die and the changes of life-cycle state. Every reset and every
change of state wipes all memory. The model's choices in it: how the outside tells which step fails, and on which unit (log 81), what a wipe
leaves (log 71, and the reset values of logs 1 and 15), what survives a reset (log 104), that fences of the self-test are only told
(log 82) and its steps come in order (log 105), that a session needs a key (log 83), and that boot ends after step 5 in DECOMMISSIONED as log 80 has it. -/
def Obligations.BootAndLifeCycle : Prop :=
  ∀ (s : State),
    let now := s.mcyc.toNat
    -- the boot under way does not fail in one of two steps; it stops, and the step and the unit are reported
    let passes (a b : Nat) : Prop := ∀ f, s.sys.fails = some f → f.step ≠ a ∧ f.step ≠ b
    let stopped (f : BootFailure) : State := { s with sys := { s.sys with boot := .stopped, console := s.sys.console ++ [.bootFailure f] } }
    (∀ fails : Option BootFailure,
      let y : System := {
        boot := .started, life := s.sys.life, firmware := s.sys.staged.getD s.sys.firmware, nextKey := s.sys.nextKey, keys := s.sys.keys
        provisioned := s.sys.provisioned, moduleKey := Config.moduleKey s.fresh, fails := fails, lifeLog := s.sys.lifeLog
        console := s.sys.console }
      let t (y : System) : State :=
        { State.reset with node := s.node, inputs := s.inputs, outbox := s.outbox, fresh := s.fresh + 1, sys := y }
      ((∀ f, fails = some f → f.step ≠ 1 ∧ f.step ≠ 2) → exec (.powerOnReset fails) s = .next (t y)) ∧
      (∀ f, fails = some f → (f.step = 1 ∨ f.step = 2) →
        exec (.powerOnReset fails) s = .next (t { y with boot := .stopped, console := s.sys.console ++ [.bootFailure f] }))) ∧
    (∀ f, s.sys.fails = some f →
      (∀ failed, s.sys.boot = .started → (f.step = 3 ∨ f.step = 4) → exec (.selfTestEnd failed) s = .next (stopped f)) ∧
      (s.sys.boot = .tested → f.step = 5 → exec .memoryWipeEnd s = .next (stopped f)) ∧
      (s.sys.boot = .wiped → s.sys.life ≠ .decommissioned → (f.step = 6 ∨ f.step = 7) → exec .linkTrainingEnd s = .next (stopped f))) ∧
    (∀ failed : List UnitId, s.sys.boot = .started → passes 3 4 → (∀ c ∈ s.core :: s.peers, c.streamErr = none) → failed.Nodup →
      exec (.selfTestEnd failed) s = .next { s with sys := { s.sys with
        boot := .tested, fenced := failed, console := s.sys.console ++ failed.map .fenceEvent } }) ∧
    (∀ failed c, s.sys.boot = .started → passes 3 4 → c ∈ s.core :: s.peers → c.streamErr ≠ none →
      ∃ t, exec (.selfTestEnd failed) s = .next t ∧ UnitId.core (c.ref / 192) (c.ref % 192) ∈ t.sys.fenced) ∧
    (s.sys.boot = .tested → passes 5 5 → exec .memoryWipeEnd s = .next { State.reset with
      mcyc := s.mcyc, node := s.node, inputs := s.inputs, outbox := s.outbox, fresh := s.fresh
      cp := { nextSeq := s.cp.nextSeq, readIdx := s.cp.nextSeq - 1 }
      agenda := s.sys.retraining.map fun r => ⟨r.2 + 7000000, none, .linkRetrainTimeout r.1⟩
      sys := { s.sys with boot := .wiped, keySlots := 0, policy := [], frameKeys := [], seals := [], errors := [], recent := [] } }) ∧
    (s.sys.boot = .wiped → passes 6 7 → s.sys.life ≠ .decommissioned → exec .linkTrainingEnd s = .next { s with
      fresh := s.fresh + 1, sys := { s.sys with boot := .open_, domain := Config.domain s.fresh } }) ∧
    (s.sys.boot = .open_ → exec .linkTrainingEnd s = .next { s with sys := { s.sys with retraining := [] } }) ∧
    (∀ r : LifeReq,
      let change := (s.sys.life, r.target)
      let known : Prop := change = (.manufacture, .provisioned) ∨ change = (.provisioned, .deployed) ∨ change = (.deployed, .provisioned) ∨
        change = (.deployed, .decommissioned)
      let served : Prop := r.auth = true ∧ (s.sys.keys.test = true ∨ s.sys.keys.owner ≠ none)
      (¬ (served ∧ r.signed = true ∧ known) → exec (.lifecycleRequest r) s = .next s) ∧
      (served → r.signed = true → known → exec (.lifecycleRequest r) s = .next { State.reset with
        mcyc := s.mcyc, node := s.node, inputs := s.inputs, outbox := s.outbox, fresh := s.fresh
        cp := { nextSeq := s.cp.nextSeq + 1, readIdx := s.cp.nextSeq - 1
                journal := [⟨s.cp.nextSeq, .lifeCycle, 0, 0, 0, 0, .life r.target⟩] }
        agenda := s.sys.retraining.map fun r => ⟨r.2 + 7000000, none, .linkRetrainTimeout r.1⟩
        sys := { s.sys with
          keySlots := 0, policy := [], frameKeys := [], seals := [], errors := [], recent := [], life := r.target
          lifeLog := s.sys.lifeLog ++ [r.target]
          keys := if s.sys.life = .manufacture then ⟨false, some s.sys.provisioned, some s.sys.provisioned⟩
            else if r.target = .decommissioned then ⟨false, none, none⟩ else s.sys.keys
          provisioned := if s.sys.life = .manufacture then s.sys.provisioned + 1 else s.sys.provisioned } })) ∧
    -- a bundle streamed to a die: one a cc goes down the tree, and 6 cc later the cores that run no kernel execute it
    (∀ bay seq b, ∃ due, now + 6 ≤ due ∧ (∀ e ∈ s.streams, e.2.1 = bay → e.1 < due) ∧ ((∀ e ∈ s.streams, e.2.1 ≠ bay) → due = now + 6) ∧
      exec (.streamedBundle bay seq b) s = .next { s with streams := s.streams ++ [(due, bay, seq, b)] }) ∧
    (∀ at_ bay seq b, (∀ d ∈ s.agenda, now < d.at_) → (s.streams.find? fun e => decide (e.1 ≤ now)) = some (at_, bay, seq, b) →
      let idle (c : Core) : Prop := c.kernel = 0 ∧ c.pend = [] ∧ c.left = [] ∧ s.fencedUnit (.core (c.ref / 192) (c.ref % 192)) = false ∧ c.z = [] ∧ c.pool = [] ∧ c.stores = []
      ∃ t, step s = .next t ∧ t.streams = s.streams.filter (fun e => e != (at_, bay, seq, b)) ∧
        t.hbm = s.hbm ∧ t.kernels = s.kernels ∧ t.core.ref = s.core.ref ∧
        (∀ r, r / 192 ≠ bay ∨ (s.coreAt r).kernel ≠ 0 ∨ s.fencedUnit (.core (r / 192) (r % 192)) = true → t.coreAt r = s.coreAt r) ∧
        (∀ r e, r / 192 = bay → idle (s.coreAt r) → decodeBundle ⟨32, 16, [], []⟩ b = .error e →
          t.coreAt r = { s.coreAt r with streamErr := some seq }) ∧
        (∀ r x f, r / 192 = bay → idle (s.coreAt r) → decodeBundle ⟨32, 16, [], []⟩ b = .ok x → x.brace = false → x.tmark = false →
          x.s = .movi f → f.pg = 0 → x.va = .nop .va → x.vb = .nop .vb → x.m = .nop .m → x.c0 = .nop .c0 → x.c1 = .nop .c1 → x.k = .nop .k →
          t.coreAt r = { s.coreAt r with
            pend := (s.coreAt r).pend ++ [⟨(s.coreAt r).clk + 1, .s, [.s f.sd.toNat (BitVec.ofInt 64 f.imm.toInt)], {}⟩] }))

/-- R349, R386, R387, R388, R392, R393: the Azdor controller's services, and what errors and fences do. The model's choices in it: the order
of a report's bytes (log 13), that a session needs a key of the key store (log 83), the readings of the sensors, which are free (log 151), and that
an uncorrectable dictionary entry stays marked until it is reloaded (log 86). -/
def Obligations.SecurityAndErrors : Prop :=
  ∀ (s : State),
    let now := s.mcyc.toNat
    let told (m : ConsoleMsg) : State := { s with sys := { s.sys with console := s.sys.console ++ [m] } }
    -- a unit fenced that no kernel uses
    let fenced (t : State) (u : UnitId) : State :=
      recorded { t with sys := { t.sys with fenced := t.sys.fenced ++ [u], console := t.sys.console ++ [.fenceEvent u] } } .unitFenced 0 0 0 0 (.unit u)
    let served (a : Bool) : Prop := a = true ∧ (s.sys.keys.test = true ∨ s.sys.keys.owner ≠ none)
    (∀ r : AttestReq,
      (∀ key, served r.auth → s.sys.keys.identity = some key → exec (.attestationRequest r) s = .next (told (.report {
        life := s.sys.life, firmware := s.sys.firmware, fenced := s.sys.fenced, seals := s.sys.seals, nonce := r.nonce
        signature := Config.sign key (Config.sha512 (reportBytes s.sys.life s.sys.firmware s.sys.fenced s.sys.seals r.nonce)) }))) ∧
      (¬ served r.auth ∨ s.sys.keys.identity = none → exec (.attestationRequest r) s = .next s)) ∧
    (∀ a v i, (served a → v = true → exec (.firmwareUpdate a v i) s = .next { s with sys := { s.sys with staged := some i } }) ∧
      (¬ served a ∨ v = false → exec (.firmwareUpdate a v i) s = .next s)) ∧
    (∀ a, (served a → exec (.telemetryRequest a) s = .next { told (.telemetry {
        power := Config.sensor 0 s.fresh, flow := Config.sensor 1 s.fresh, temperatures := (List.range 9).map fun i => Config.sensor (2 + i) s.fresh
        clocks := [700, 1400], fenced := s.sys.fenced, errors := s.sys.errors, warned := s.sys.warned }) with fresh := s.fresh + 1 }) ∧
      (¬ served a → exec (.telemetryRequest a) s = .next s)) ∧
    (∀ u, s.fencedUnit u = true → exec (.unitFence u) s = .next s ∧ exec (.sramUncorrectableError u) s = .next s) ∧
    (∀ u, s.fencedUnit u = false → Taking s → (∀ k ∈ s.kernels, k.placed = true → s.uses k u = false) →
      exec (.unitFence u) s = .next (fenced s u) ∧ exec (.sramUncorrectableError u) s = .next (fenced s u)) ∧
    (∀ u k, s.fencedUnit u = false → s.kernels = [k] → k.placed = true → k.ending = none → s.uses k u = true →
      ∃ t k' r, exec (.unitFence u) s = .next t ∧ t.kernels = [k'] ∧ k'.ending = some .faulted ∧ k'.record = some r ∧ r.cause = 0x105 ∧
        u ∈ t.sys.fenced ∧ ∀ c ∈ k.cores, (t.coreAt c).run = .stopped) ∧
    (∀ u old, s.sys.errors.find? (fun e => e.1 == u) = some (u, old) → s.sys.recent = [] →
      exec (.sramSoftError (.corrected u)) s = .next { s with sys := { s.sys with
        recent := [(u, now)], errors := s.sys.errors.filter (fun e => e.1 != u) ++ [(u, old + 1)] } }) ∧
    (∀ u, 4095 ≤ (s.sys.recent.filter fun e => e.1 == u && decide (now < e.2 + 2 ^ 30)).length →
      ∃ t, exec (.sramSoftError (.corrected u)) s = .next t ∧ t.fencedUnit u = true) ∧
    (∀ b e k, s.kernels = [k] → exec (.sramSoftError (.entry b k.seq e)) s = .next { s with
      spoiled := (b, k.imgKey, e, none) :: s.spoiled.filter fun x => !(x.1 == b && x.2.1 == k.imgKey && x.2.2.1 == e) }) ∧
    (∀ burst, Taking s → burst ∉ s.poison → exec (.hbmUncorrectableError burst) s =
      .next (recorded { s with poison := burst :: s.poison } .memoryEvent 0 0 0 0 (.memory (burst % 64) burst))) ∧
    (∀ n, s.fencedUnit (.link n) = false → (∀ r ∈ s.sys.retraining, r.1 ≠ n) → exec (.linkRetrainStart n) s =
      .next (dueIn { s with sys := { s.sys with retraining := s.sys.retraining ++ [(n, now)] } } 7000000 (.linkRetrainTimeout n))) ∧
    (∀ n, (∀ r ∈ s.sys.retraining, r.1 ≠ n) → exec (.linkRetrainTimeout n) s = .next s) ∧
    (∀ n since, (n, since) ∈ s.sys.retraining → since + 7000000 ≤ now → s.fencedUnit (.link n) = false → Taking s → s.kernels = [] →
      exec (.linkRetrainTimeout n) s = .next (fenced { s with sys := { s.sys with retraining := s.sys.retraining.filter fun r => r.1 != n } } (.link n))) ∧
    (exec .thermalWarning s = .next { s with sys := { s.sys with warned := true, console := s.sys.console ++ [.warning] } }) ∧
    (∀ die, s.sys.fenced = [] → s.kernels = [] → Taking s → s.cp.nextSeq - s.cp.readIdx + 8 < 2 ^ 20 →
      exec (.thermalTrip die) s = .next ((List.range 8).foldl (fun t n => fenced t (.bay n)) s))

/-! ## Encodings -/

/-- R44 to R54, R61, R70: every slot operation, with every operand at every value its encoding admits, decodes from the bundle that
holds it alone. A no-op of any slot is the bundle of zeros, which decodes to the S slot's. -/
def Obligations.DecodeOfEncode : Prop :=
  ∀ (i : Instr) (w : BitVec 384), i.wf = true → outsidePartition 32 16 i = none → encode i = some w →
    decodeOne w = some (match i with | .nop _ => .nop .s | i => i)

/-- R44, R48 to R52, R53: the bundle of R53's worked example, and a word of each slot and form written out from the encoding tables. -/
def Obligations.WordsDecodeToTheirOperations : Prop :=
  decodeBundle ⟨16, 8, [], []⟩ (BitVec.ofNat 384 (0x0114510800000001 + 0x010F000C00100080 * 2 ^ 64 + 0x03FF001800400140 * 2 ^ 128 +
    0x00000104121C3147 * 2 ^ 192)) = .ok
      ⟨true, false, .add ⟨5, 5, 4, 2, 0⟩, .vadd ⟨.va, 0x0F, 3, 1, 2, 0, 0⟩, .vmul ⟨.vb, 0xFF, 6, 4, 5, 0, 0⟩,
       .mma ⟨4, 1, 2, 7, 3, 5, 7⟩, .nop .c0, .nop .c1, .nop .k⟩ ∧
  -- MOVI s4, 0x103F000: OP, SD, SA, PG, IMM
  decodeTableWord 64 ((0x3E * 2 ^ 48 + 4 * 2 ^ 42 + 0 * 2 ^ 36 + 0 * 2 ^ 32 + 0x103F000) * 2 ^ 8) = some (.movi ⟨4, 0, 0, 0x103F000⟩) ∧
  -- BR under not p3 to unit 9: OP, PG, PS, TGT
  decodeTableWord 64 ((0x60 * 2 ^ 48 + 3 * 2 ^ 44 + 1 * 2 ^ 43 + 9) * 2 ^ 8) = some (.br ⟨3, true, 9⟩) ∧
  -- VLD v7 <- a1 in course 1 with displacement -2: OP, CM, VD, VA, VB, QG, TY
  decodeTableWord 128 ((0x80 * 2 ^ 56 + 0x02 * 2 ^ 48 + 7 * 2 ^ 34 + 1 * 2 ^ 20 + (2 ^ 14 - 2) * 2 ^ 6 + 0 * 2 ^ 3 + 0) * 2 ^ 64) =
    some (.vld ⟨.va, 0x02, 7, 1, -2, 0, 0⟩) ∧
  -- CPGET in C0: OP, SX, SY, AP, TO, TI1, TI2, TI3
  decodeTableWord 288 ((0x01 * 2 ^ 40 + 10 * 2 ^ 34 + 11 * 2 ^ 28 + 3 * 2 ^ 24 + 2 * 2 ^ 18 + 1 * 2 ^ 12 + 2 * 2 ^ 6 + 2) * 2 ^ 240) =
    some (.cpget ⟨.c0, 10, 11, 3, 2, 1, 2, 2⟩) ∧
  -- SEND v12 on circuit 5 in every course, with its BRACE: OP, CM, VR, CH, QG
  decodeTableWord 384 ((0x01 * 2 ^ 40 + 0xFF * 2 ^ 32 + 12 * 2 ^ 18 + 5 * 2 ^ 10 + 0 * 2 ^ 6) * 2 ^ 336 + 1) = some (.send ⟨0xFF, 12, 5, 0⟩)

/-- R79: the modifiers that FCMP, FADD, FMUL, FFMA, CVTIF and CVTFI refuse, each with reason 0x08. R62: a K-slot operation asks for a
brace, and a brace without one is legal. -/
def Obligations.ModifiersAndMissingBracesAreIllegal : Prop :=
  (∀ (e : ExpandEnv) (w : BitVec 384), w.toNat / 2 ^ 376 ≠ 0 → w.toNat % 2 = 0 → ∃ r, decodeBundle e w = .error r) ∧
  (∀ (e : ExpandEnv) (w : BitVec 384) (b : Bundle), w.toNat / 2 ^ 376 = 0 → decodeBundle e w = .ok b →
    decodeBundle e (w ||| 1) = .ok { b with brace := true }) ∧
  ∀ (e : ExpandEnv) (f : RForm),
    let illegal (op : Nat) : Prop := ∃ field, decodeSlot e .s (f.bits op) = .error ⟨0x08, field, .s⟩
    (16 ≤ f.sd.toNat ∨ 4 < f.fn.toNat → illegal 0x45) ∧
    (2 ≤ f.fn.toNat → illegal 0x40 ∧ illegal 0x41 ∧ illegal 0x42) ∧
    (4 ≤ f.fn.toNat → illegal 0x46 ∧ illegal 0x47)

/-! ## The machine as a whole -/

/-- R46, R65, R203, R345, R347, R394: a step of a core that nothing holds runs the bundle decoded at its position. Its slots read the
state from before the bundle and are executed in slot order; its stores are made, and control passes on; a slot that would trap
takes the place of the whole bundle. A step also runs what the agenda or the outside has ready, the bound of a checkpoint after the turns of
the cores. A word placed by withFetchWord stands decoded at the position. The order of what one cc holds is the model's choice (log 9), and so
are that stores of a bundle that leaves handler mode are not logged (log 173) and how a bare word is placed (log 7). -/
def Obligations.StepRunsTheDecodedBundle : Prop :=
  (∀ (s : State) (x : XItem), (∀ d ∈ s.agenda, s.mcyc.toNat < d.at_) → (∀ e ∈ s.streams, s.mcyc.toNat < e.1) → s.inputs = [] →
    let c := s.core
    let b := x.bundle
    c.turned = false → c.run = .running → c.kernel ≠ 0 → c.issued = false → c.notBefore ≤ c.clk → c.pend = [] → c.left = [] → c.mq = [] → c.ops = [] →
    c.stopReq = false → s.underWay = [] →
    c.trace.run = (0, 0) → c.trace.miss = 0 → c.stepsOut = 0 → c.item = some x → x.bad = none → (b.brace = false ∨ c.braced = true) → c.reissue = false →
    c.holdOf b = none → b.tmark = false →
    let s0 : State := { s with core := { c with src := none, first := c.nextOp } }
    -- nothing traps
    (∀ t1 t2 t3 t4 t5 t6 t7, s0.bundleTrap b = none → exec b.s s0 = .next t1 → exec b.va t1 = .next t2 → exec b.vb t2 = .next t3 →
      exec b.m t3 = .next t4 → exec b.c0 t4 = .next t5 → exec b.c1 t5 = .next t6 → exec b.k t6 = .next t7 →
      let e := t6.core.keepWait t7.core
      let d := if c.mode = true ∧ e.mode = false then
          { ({ e with mode := true } : Core).poolWrite e.stores with mode := false, left := e.left ++ e.pend, pend := [] }
        else e.poolWrite e.stores
      let u : State := { t7 with core := { d with stores := [], racing := [], issued := true, notBefore := max t7.core.notBefore (t7.core.clk + 1) } }
      let v := ((if releases c b.s then u.release else u).settle).stopIfAsked b.brace c.mode
      step s = .next (if v.core.run = .running ∧ v.core.issued = true then v.passOn else v)) ∧
    -- the S slot traps
    (∀ t, exec b.s s0 = .next t → s0.trapped t = true → step s = .next { t with core := { t.core with racing := [] } })) ∧
  (∀ (s : State) (d : Due) (rest : List Due), s.agenda = d :: rest → d.at_ ≤ s.mcyc.toNat → d.core = none ∨ d.core = some s.core.ref →
    ((∀ seq, d.ev ≠ .checkpointBoundExpiry seq) ∨
      (∀ e ∈ rest, s.mcyc.toNat < e.at_) ∧ (∀ e ∈ s.streams, s.mcyc.toNat < e.1) ∧ s.inputs = [] ∧ s.core.turned = true ∧ ∀ p ∈ s.peers, p.turned = true) →
    step s = exec d.ev { s with agenda := rest }) ∧
  (∀ (s : State) (i : Instr) (rest : List Instr), (∀ d ∈ s.agenda, s.mcyc.toNat < d.at_) → (∀ e ∈ s.streams, s.mcyc.toNat < e.1) →
    s.inputs = i :: rest →
    step s = exec i { s with inputs := rest }) ∧
  (∀ (s : State) (nbits w : Nat) (b : Bundle),
    let word := BitVec.ofNat 384 (w % 2 ^ nbits)
    let ch := word.toNat / 2 ^ 346 % 2 ^ 8
    decodeBundle ⟨32, 15, [ch], [ch]⟩ word = .ok b →
      ∃ x, (s.withFetchWord nbits w).core.item = some x ∧ x.bundle = b ∧ x.bad = none ∧ (s.withFetchWord nbits w).core.pos = ⟨0, 0⟩)

/-- Log entry 4 names the canonical form (the model's own): whatever is executed, and whatever step the machine takes, HBM keeps it. -/
def Obligations.EveryStepKeepsMemoryCanonical : Prop :=
  (∀ (i : Instr) (s t : State), Safety.Canonical s → exec i s = .next t → Safety.Canonical t) ∧
  (∀ (s t : State), Safety.Canonical s → step s = .next t → Safety.Canonical t)

/-- R46, R147, R152: no operation of a bundle writes HBM when it issues; HUNPIN alone does, in the pin count of its object. What engines
and releases write comes with their own events. -/
def Obligations.SlotsLeaveMemoryAlone : Prop :=
  ∀ (i : Instr) (s t : State), hasWord i = true → (∀ f, i ≠ .hunpin f) → exec i s = .next t →
    t.hbm = s.hbm ∧ ∀ a, t.memByte a = s.memByte a

/-- R381: the module after reset. Boot has not begun, no command is taken, and memory reads zero, in canonical form. That the registers
of a core that runs no kernel are zero, that MCYC starts at 0, and the life-cycle state, are the model's choices (log entries 1, 2 and 15),
and that HBM reads zero before its wipe is its reading (log 4). -/
def Obligations.ResetState : Prop :=
  Safety.Canonical State.reset ∧ State.reset.sys.boot = .off ∧ State.reset.canTake = false ∧ (∀ a, State.reset.memByte a = 0) ∧
  State.reset.mcyc = 0 ∧ State.reset.contexts = [] ∧ State.reset.kernels = [] ∧ State.reset.windows = [] ∧ State.reset.sys.fenced = [] ∧
  State.reset.cp.nextSeq = 1 ∧ State.reset.sys.life = .manufacture ∧
  ∀ ref, let c := State.reset.coreAt ref
    c.ref = ref ∧ c.kernel = 0 ∧ c.run = .unbound ∧ c.mode = false ∧ c.flags = {} ∧
    (∀ n, c.rs n = 0 ∧ c.ra n = 0 ∧ c.rh n = 0 ∧ c.rlc n = 0) ∧ (∀ n, 0 < n → c.rp n = false ∧ c.rq n = 0) ∧ c.rp 0 = true ∧
    c.rq 0 = BitVec.allOnes 128 ∧ (∀ n l, c.rv n l = 0 ∧ c.rz n l = 0) ∧ (∀ off, c.poolByte off = 0)
end

