-- ==== Sys2Proof/Laws/Sparse.lean ====
section
/-! SUPPORT. Sparse maps: what a read gives after each write, that every write keeps the canonical form, and that equal reads are equal
maps. -/

namespace Sys2Proof.Machine

variable {α : Type}

/-! ## Reads after writes -/

@[simp] theorem Sparse.get_nil (d : α) (n : Nat) : Sparse.get d [] n = d := rfl

@[simp] theorem Sparse.get_put_same (d : α) (l : List (Nat × α)) (n : Nat) (x : α) : Sparse.get d (Sparse.put l n x) n = x := by
  induction l with
  | nil => simp [Sparse.put, Sparse.get]
  | cons e rest ih =>
    simp only [Sparse.put]
    split
    · simp [Sparse.get, ih]; omega
    · split <;> simp [Sparse.get, *]

theorem Sparse.get_put_ne (d : α) (l : List (Nat × α)) {m n : Nat} (h : m ≠ n) (x : α) : Sparse.get d (Sparse.put l n x) m = Sparse.get d l m := by
  induction l with
  | nil => simp [Sparse.put, Sparse.get]; omega
  | cons e rest ih =>
    simp only [Sparse.put]
    split
    · simp [Sparse.get, ih]
    · split
      · have hn : n ≠ m := Ne.symm h
        simp [Sparse.get, *]
      · simp only [Sparse.get]; rw [if_neg (by omega)]

@[simp] theorem Sparse.get_del_same (d : α) (l : List (Nat × α)) (n : Nat) : Sparse.get d (Sparse.del l n) n = d := by
  induction l with
  | nil => rfl
  | cons e rest ih =>
    obtain ⟨k, v⟩ := e
    by_cases h : k = n <;> simp_all [Sparse.del, Sparse.get]

theorem Sparse.get_del_ne (d : α) (l : List (Nat × α)) {m n : Nat} (h : m ≠ n) : Sparse.get d (Sparse.del l n) m = Sparse.get d l m := by
  induction l with
  | nil => rfl
  | cons e rest ih =>
    obtain ⟨k, v⟩ := e
    by_cases hk : k = n
    · have hm : k ≠ m := hk ▸ Ne.symm h
      subst hk; simpa [Sparse.del, Sparse.get, hm] using ih
    · simp_all [Sparse.del, Sparse.get]

@[simp] theorem Sparse.get_set_same [DecidableEq α] (d : α) (l : List (Nat × α)) (n : Nat) (x : α) : Sparse.get d (Sparse.set d l n x) n = x := by
  unfold Sparse.set; split <;> simp [*]

theorem Sparse.get_set_ne [DecidableEq α] (d : α) (l : List (Nat × α)) {m n : Nat} (h : m ≠ n) (x : α) :
    Sparse.get d (Sparse.set d l n x) m = Sparse.get d l m := by
  unfold Sparse.set; split
  · exact Sparse.get_del_ne d l h
  · exact Sparse.get_put_ne d l h x

/-- What a read gives after one write, in one equation. -/
theorem Sparse.get_set [DecidableEq α] (d : α) (l : List (Nat × α)) (m n : Nat) (x : α) :
    Sparse.get d (Sparse.set d l n x) m = if m = n then x else Sparse.get d l m := by
  split
  · subst_vars; simp
  · exact Sparse.get_set_ne d l ‹_› x

@[simp] theorem Sparse.setAll_nil [DecidableEq α] (d : α) (l : List (Nat × α)) : Sparse.setAll d l [] = l := rfl

@[simp] theorem Sparse.setAll_cons [DecidableEq α] (d : α) (l : List (Nat × α)) (kv : Nat × α) (kvs : List (Nat × α)) :
    Sparse.setAll d l (kv :: kvs) = Sparse.setAll d (Sparse.set d l kv.1 kv.2) kvs := rfl

theorem Sparse.setAll_append [DecidableEq α] (d : α) (l : List (Nat × α)) (a b : List (Nat × α)) :
    Sparse.setAll d l (a ++ b) = Sparse.setAll d (Sparse.setAll d l a) b := by simp [Sparse.setAll]

/-- A key that no write names keeps its value. -/
theorem Sparse.get_setAll_of_not_mem [DecidableEq α] (d : α) (kvs : List (Nat × α)) :
    ∀ (l : List (Nat × α)) {m : Nat}, (∀ kv ∈ kvs, kv.1 ≠ m) → Sparse.get d (Sparse.setAll d l kvs) m = Sparse.get d l m := by
  induction kvs with
  | nil => intros; rfl
  | cons kv rest ih =>
    intro l m h
    simp only [List.forall_mem_cons] at h
    rw [Sparse.setAll_cons, ih _ h.2, Sparse.get_set_ne d l (Ne.symm h.1)]

/-- The last write of a key stands. -/
theorem Sparse.get_setAll_concat [DecidableEq α] (d : α) (l : List (Nat × α)) (kvs : List (Nat × α)) (kv : Nat × α) (m : Nat) :
    Sparse.get d (Sparse.setAll d l (kvs ++ [kv])) m = if m = kv.1 then kv.2 else Sparse.get d (Sparse.setAll d l kvs) m := by
  rw [Sparse.setAll_append, Sparse.setAll_cons, Sparse.setAll_nil, Sparse.get_set]

/-! ## The canonical form -/

@[simp] theorem Sparse.wfFrom_cons [DecidableEq α] (d : α) (lo : Option Nat) (k : Nat) (v : α) (rest : List (Nat × α)) :
    Sparse.wfFrom d lo ((k, v) :: rest) = true ↔ (∀ p, lo = some p → p < k) ∧ v ≠ d ∧ Sparse.wfFrom d (some k) rest = true := by
  cases lo <;> simp [Sparse.wfFrom, and_assoc]

@[simp] theorem Sparse.wfFrom_nil [DecidableEq α] (d : α) (lo : Option Nat) : Sparse.wfFrom d lo ([] : List (Nat × α)) = true := by cases lo <;> rfl

/-- A lower bound may be lowered. -/
theorem Sparse.wfFrom_mono [DecidableEq α] (d : α) {lo hi : Option Nat} (h : ∀ p, lo = some p → ∃ q, hi = some q ∧ p ≤ q) (l : List (Nat × α))
    (hl : Sparse.wfFrom d hi l = true) : Sparse.wfFrom d lo l = true := by
  cases l with
  | nil => simp
  | cons e rest =>
    obtain ⟨k, v⟩ := e
    simp only [Sparse.wfFrom_cons] at hl ⊢
    refine ⟨fun p hp => ?_, hl.2⟩
    obtain ⟨q, hq, hpq⟩ := h p hp
    exact Nat.lt_of_le_of_lt hpq (hl.1 q hq)

theorem Sparse.wfFrom_filter [DecidableEq α] (d : α) (f : Nat × α → Bool) (l : List (Nat × α)) :
    ∀ {lo : Option Nat}, Sparse.wfFrom d lo l = true → Sparse.wfFrom d lo (l.filter f) = true := by
  induction l with
  | nil => simp
  | cons e rest ih =>
    intro lo h
    obtain ⟨k, v⟩ := e
    simp only [Sparse.wfFrom_cons] at h
    cases hf : f (k, v)
    · rw [List.filter_cons_of_neg (by simp [hf])]
      exact Sparse.wfFrom_mono d (fun p hp => ⟨k, rfl, Nat.le_of_lt (h.1 p hp)⟩) _ (ih h.2.2)
    · rw [List.filter_cons_of_pos hf, Sparse.wfFrom_cons]
      exact ⟨h.1, h.2.1, ih h.2.2⟩

theorem Sparse.wfFrom_put [DecidableEq α] (d : α) {n : Nat} {x : α} (hx : x ≠ d) (l : List (Nat × α)) :
    ∀ {lo : Option Nat}, (∀ p, lo = some p → p < n) → Sparse.wfFrom d lo l = true → Sparse.wfFrom d lo (Sparse.put l n x) = true := by
  induction l with
  | nil => intro lo h _; simpa [Sparse.put] using ⟨h, hx⟩
  | cons e rest ih =>
    intro lo h hl
    obtain ⟨k, v⟩ := e
    simp only [Sparse.wfFrom_cons] at hl
    simp only [Sparse.put]
    split
    · rw [Sparse.wfFrom_cons]
      exact ⟨hl.1, hl.2.1, ih (by simpa using ‹k < n›) hl.2.2⟩
    · split
      · rw [Sparse.wfFrom_cons]
        exact ⟨hl.1, hx, hl.2.2⟩
      · rw [Sparse.wfFrom_cons, Sparse.wfFrom_cons]
        exact ⟨h, hx, by intro p hp; cases hp; omega, hl.2⟩

theorem Sparse.wf_nil [DecidableEq α] (d : α) : Sparse.wf d ([] : List (Nat × α)) = true := rfl

theorem Sparse.wf_filter [DecidableEq α] (d : α) (f : Nat × α → Bool) {l : List (Nat × α)} (h : Sparse.wf d l = true) :
    Sparse.wf d (l.filter f) = true := Sparse.wfFrom_filter d f l h

theorem Sparse.wf_del [DecidableEq α] (d : α) {l : List (Nat × α)} (n : Nat) (h : Sparse.wf d l = true) : Sparse.wf d (Sparse.del l n) = true :=
  Sparse.wf_filter d _ h

theorem Sparse.wf_clear [DecidableEq α] (d : α) {l : List (Nat × α)} (lo hi : Nat) (h : Sparse.wf d l = true) :
    Sparse.wf d (Sparse.clear l lo hi) = true := Sparse.wf_filter d _ h

theorem Sparse.wf_put [DecidableEq α] (d : α) {l : List (Nat × α)} (n : Nat) {x : α} (hx : x ≠ d) (h : Sparse.wf d l = true) :
    Sparse.wf d (Sparse.put l n x) = true := Sparse.wfFrom_put d hx l (by simp) h

/-- A write keeps the canonical form. -/
theorem Sparse.wf_set [DecidableEq α] (d : α) {l : List (Nat × α)} (n : Nat) (x : α) (h : Sparse.wf d l = true) :
    Sparse.wf d (Sparse.set d l n x) = true := by
  unfold Sparse.set; split
  · exact Sparse.wf_del d n h
  · exact Sparse.wf_put d n ‹_› h

/-- Several writes keep the canonical form. -/
theorem Sparse.wf_setAll [DecidableEq α] (d : α) (kvs : List (Nat × α)) :
    ∀ {l : List (Nat × α)}, Sparse.wf d l = true → Sparse.wf d (Sparse.setAll d l kvs) = true := by
  induction kvs with
  | nil => intro l h; exact h
  | cons kv rest ih => intro l h; exact ih (Sparse.wf_set d kv.1 kv.2 h)

/-- Below its first key a canonical map reads the default. -/
theorem Sparse.get_of_wfFrom [DecidableEq α] (d : α) (l : List (Nat × α)) :
    ∀ {p n : Nat}, Sparse.wfFrom d (some p) l = true → n ≤ p → Sparse.get d l n = d := by
  induction l with
  | nil => intros; rfl
  | cons e rest ih =>
    intro p n h hn
    obtain ⟨k, v⟩ := e
    simp only [Sparse.wfFrom_cons] at h
    have hk := h.1 p rfl
    simp only [Sparse.get]
    rw [if_neg (by omega)]
    exact ih h.2.2 (by omega)

/-- Canonical maps that read the same are the same list. -/
theorem Sparse.eq_of_get [DecidableEq α] (d : α) (l : List (Nat × α)) :
    ∀ {lo : Option Nat} (m : List (Nat × α)), Sparse.wfFrom d lo l = true → Sparse.wfFrom d lo m = true →
      (∀ n, Sparse.get d l n = Sparse.get d m n) → l = m := by
  induction l with
  | nil =>
    intro lo m _ hm h
    cases m with
    | nil => rfl
    | cons e rest =>
      obtain ⟨k, v⟩ := e
      simp only [Sparse.wfFrom_cons] at hm
      have := h k
      simp [Sparse.get] at this
      exact absurd this.symm hm.2.1
  | cons e rest ih =>
    intro lo m hl hm h
    obtain ⟨k, v⟩ := e
    simp only [Sparse.wfFrom_cons] at hl
    cases m with
    | nil =>
      have := h k
      simp [Sparse.get] at this
      exact absurd this hl.2.1
    | cons e' rest' =>
      obtain ⟨k', v'⟩ := e'
      simp only [Sparse.wfFrom_cons] at hm
      have hkk : k = k' := by
        rcases Nat.lt_trichotomy k k' with c | c | c
        · have := h k
          simp only [Sparse.get, if_pos] at this
          rw [if_neg (by omega), Sparse.get_of_wfFrom d rest' hm.2.2 (by omega)] at this
          exact absurd this hl.2.1
        · exact c
        · have := h k'
          simp only [Sparse.get, if_pos] at this
          rw [if_neg (by omega), Sparse.get_of_wfFrom d rest hl.2.2 (by omega)] at this
          exact absurd this.symm hm.2.1
      subst hkk
      have hv : v = v' := by simpa [Sparse.get] using h k
      subst hv
      rw [ih rest' hl.2.2 hm.2.2 fun n => ?_]
      by_cases hn : k = n
      · subst hn
        rw [Sparse.get_of_wfFrom d rest hl.2.2 (Nat.le_refl _), Sparse.get_of_wfFrom d rest' hm.2.2 (Nat.le_refl _)]
      · simpa [Sparse.get, hn] using h n

/-! ## Bytes (R2) -/

@[simp] theorem bytesOf_length (n x : Nat) : (bytesOf n x).length = n := by
  induction n generalizing x with
  | zero => rfl
  | succ n ih => simp [bytesOf, ih]

/-- The number that the bytes of a number hold. -/
theorem natOf_bytesOf (n x : Nat) : natOf (bytesOf n x) = x % 256 ^ n := by
  induction n generalizing x with
  | zero => simp [bytesOf, natOf, Nat.mod_one]
  | succ n ih =>
    have h256 : x % 256 % 2 ^ 8 = x % 256 := Nat.mod_eq_of_lt (Nat.mod_lt _ (by decide))
    simp only [bytesOf, natOf, ih, BitVec.toNat_ofNat, h256]
    rw [Nat.pow_succ', Nat.mod_mul]

theorem natOf_lt (l : List Byte) : natOf l < 256 ^ l.length := by
  induction l with
  | nil => simp [natOf]
  | cons b rest ih =>
    have := b.isLt
    simp only [natOf, List.length_cons, Nat.pow_succ']
    omega

end Sys2Proof.Machine
end

