-- ==== Sys2Proof/Laws/State.lean ====
section
/-! SUPPORT. The fields of State after each named update, one lemma per field, so that no later proof unfolds a record update. -/

namespace Sys2Proof.Machine

/-! ## mapCore -/

@[simp] theorem State.mapCore_mcyc (s : State) (f : Core → Core) : (s.mapCore f).mcyc = s.mcyc := rfl
@[simp] theorem State.mapCore_node (s : State) (f : Core → Core) : (s.mapCore f).node = s.node := rfl
@[simp] theorem State.mapCore_core (s : State) (f : Core → Core) : (s.mapCore f).core = f s.core := rfl
@[simp] theorem State.mapCore_peers (s : State) (f : Core → Core) : (s.mapCore f).peers = s.peers := rfl
@[simp] theorem State.mapCore_hbm (s : State) (f : Core → Core) : (s.mapCore f).hbm = s.hbm := rfl
@[simp] theorem State.mapCore_poison (s : State) (f : Core → Core) : (s.mapCore f).poison = s.poison := rfl
@[simp] theorem State.mapCore_images (s : State) (f : Core → Core) : (s.mapCore f).images = s.images := rfl
@[simp] theorem State.mapCore_contexts (s : State) (f : Core → Core) : (s.mapCore f).contexts = s.contexts := rfl
@[simp] theorem State.mapCore_kernels (s : State) (f : Core → Core) : (s.mapCore f).kernels = s.kernels := rfl
@[simp] theorem State.mapCore_windows (s : State) (f : Core → Core) : (s.mapCore f).windows = s.windows := rfl
@[simp] theorem State.mapCore_counters (s : State) (f : Core → Core) : (s.mapCore f).counters = s.counters := rfl
@[simp] theorem State.mapCore_taskQueues (s : State) (f : Core → Core) : (s.mapCore f).taskQueues = s.taskQueues := rfl
@[simp] theorem State.mapCore_regions (s : State) (f : Core → Core) : (s.mapCore f).regions = s.regions := rfl
@[simp] theorem State.mapCore_yardRecent (s : State) (f : Core → Core) : (s.mapCore f).yardRecent = s.yardRecent := rfl
@[simp] theorem State.mapCore_colls (s : State) (f : Core → Core) : (s.mapCore f).colls = s.colls := rfl
@[simp] theorem State.mapCore_leases (s : State) (f : Core → Core) : (s.mapCore f).leases = s.leases := rfl
@[simp] theorem State.mapCore_leaseBar (s : State) (f : Core → Core) : (s.mapCore f).leaseBar = s.leaseBar := rfl
@[simp] theorem State.mapCore_dieTlb (s : State) (f : Core → Core) : (s.mapCore f).dieTlb = s.dieTlb := rfl
@[simp] theorem State.mapCore_bonds (s : State) (f : Core → Core) : (s.mapCore f).bonds = s.bonds := rfl
@[simp] theorem State.mapCore_cp (s : State) (f : Core → Core) : (s.mapCore f).cp = s.cp := rfl
@[simp] theorem State.mapCore_sys (s : State) (f : Core → Core) : (s.mapCore f).sys = s.sys := rfl
@[simp] theorem State.mapCore_agenda (s : State) (f : Core → Core) : (s.mapCore f).agenda = s.agenda := rfl
@[simp] theorem State.mapCore_inputs (s : State) (f : Core → Core) : (s.mapCore f).inputs = s.inputs := rfl
@[simp] theorem State.mapCore_outbox (s : State) (f : Core → Core) : (s.mapCore f).outbox = s.outbox := rfl
@[simp] theorem State.mapCore_scOrder (s : State) (f : Core → Core) : (s.mapCore f).scOrder = s.scOrder := rfl
@[simp] theorem State.mapCore_moved (s : State) (f : Core → Core) : (s.mapCore f).moved = s.moved := rfl
@[simp] theorem State.mapCore_streams (s : State) (f : Core → Core) : (s.mapCore f).streams = s.streams := rfl
@[simp] theorem State.mapCore_fresh (s : State) (f : Core → Core) : (s.mapCore f).fresh = s.fresh := rfl

/-! ## after -/

@[simp] theorem State.after_mcyc (s : State) (n : Nat) (c : Option Nat) (i : Instr) : (s.after n c i).mcyc = s.mcyc := rfl
@[simp] theorem State.after_node (s : State) (n : Nat) (c : Option Nat) (i : Instr) : (s.after n c i).node = s.node := rfl
@[simp] theorem State.after_core (s : State) (n : Nat) (c : Option Nat) (i : Instr) : (s.after n c i).core = s.core := rfl
@[simp] theorem State.after_peers (s : State) (n : Nat) (c : Option Nat) (i : Instr) : (s.after n c i).peers = s.peers := rfl
@[simp] theorem State.after_hbm (s : State) (n : Nat) (c : Option Nat) (i : Instr) : (s.after n c i).hbm = s.hbm := rfl
@[simp] theorem State.after_poison (s : State) (n : Nat) (c : Option Nat) (i : Instr) : (s.after n c i).poison = s.poison := rfl
@[simp] theorem State.after_images (s : State) (n : Nat) (c : Option Nat) (i : Instr) : (s.after n c i).images = s.images := rfl
@[simp] theorem State.after_contexts (s : State) (n : Nat) (c : Option Nat) (i : Instr) : (s.after n c i).contexts = s.contexts := rfl
@[simp] theorem State.after_kernels (s : State) (n : Nat) (c : Option Nat) (i : Instr) : (s.after n c i).kernels = s.kernels := rfl
@[simp] theorem State.after_windows (s : State) (n : Nat) (c : Option Nat) (i : Instr) : (s.after n c i).windows = s.windows := rfl
@[simp] theorem State.after_counters (s : State) (n : Nat) (c : Option Nat) (i : Instr) : (s.after n c i).counters = s.counters := rfl
@[simp] theorem State.after_taskQueues (s : State) (n : Nat) (c : Option Nat) (i : Instr) : (s.after n c i).taskQueues = s.taskQueues := rfl
@[simp] theorem State.after_regions (s : State) (n : Nat) (c : Option Nat) (i : Instr) : (s.after n c i).regions = s.regions := rfl
@[simp] theorem State.after_yardRecent (s : State) (n : Nat) (c : Option Nat) (i : Instr) : (s.after n c i).yardRecent = s.yardRecent := rfl
@[simp] theorem State.after_colls (s : State) (n : Nat) (c : Option Nat) (i : Instr) : (s.after n c i).colls = s.colls := rfl
@[simp] theorem State.after_leases (s : State) (n : Nat) (c : Option Nat) (i : Instr) : (s.after n c i).leases = s.leases := rfl
@[simp] theorem State.after_leaseBar (s : State) (n : Nat) (c : Option Nat) (i : Instr) : (s.after n c i).leaseBar = s.leaseBar := rfl
@[simp] theorem State.after_dieTlb (s : State) (n : Nat) (c : Option Nat) (i : Instr) : (s.after n c i).dieTlb = s.dieTlb := rfl
@[simp] theorem State.after_bonds (s : State) (n : Nat) (c : Option Nat) (i : Instr) : (s.after n c i).bonds = s.bonds := rfl
@[simp] theorem State.after_cp (s : State) (n : Nat) (c : Option Nat) (i : Instr) : (s.after n c i).cp = s.cp := rfl
@[simp] theorem State.after_sys (s : State) (n : Nat) (c : Option Nat) (i : Instr) : (s.after n c i).sys = s.sys := rfl
@[simp] theorem State.after_agenda (s : State) (n : Nat) (c : Option Nat) (i : Instr) : (s.after n c i).agenda = insertDue s.agenda ⟨s.now + n, c, i⟩ := rfl
@[simp] theorem State.after_inputs (s : State) (n : Nat) (c : Option Nat) (i : Instr) : (s.after n c i).inputs = s.inputs := rfl
@[simp] theorem State.after_outbox (s : State) (n : Nat) (c : Option Nat) (i : Instr) : (s.after n c i).outbox = s.outbox := rfl
@[simp] theorem State.after_scOrder (s : State) (n : Nat) (c : Option Nat) (i : Instr) : (s.after n c i).scOrder = s.scOrder := rfl
@[simp] theorem State.after_moved (s : State) (n : Nat) (c : Option Nat) (i : Instr) : (s.after n c i).moved = s.moved := rfl
@[simp] theorem State.after_streams (s : State) (n : Nat) (c : Option Nat) (i : Instr) : (s.after n c i).streams = s.streams := rfl
@[simp] theorem State.after_fresh (s : State) (n : Nat) (c : Option Nat) (i : Instr) : (s.after n c i).fresh = s.fresh := rfl

/-! ## emit -/

@[simp] theorem State.emit_mcyc (s : State) (i : Instr) : (s.emit i).mcyc = s.mcyc := rfl
@[simp] theorem State.emit_node (s : State) (i : Instr) : (s.emit i).node = s.node := rfl
@[simp] theorem State.emit_core (s : State) (i : Instr) : (s.emit i).core = s.core := rfl
@[simp] theorem State.emit_peers (s : State) (i : Instr) : (s.emit i).peers = s.peers := rfl
@[simp] theorem State.emit_hbm (s : State) (i : Instr) : (s.emit i).hbm = s.hbm := rfl
@[simp] theorem State.emit_poison (s : State) (i : Instr) : (s.emit i).poison = s.poison := rfl
@[simp] theorem State.emit_images (s : State) (i : Instr) : (s.emit i).images = s.images := rfl
@[simp] theorem State.emit_contexts (s : State) (i : Instr) : (s.emit i).contexts = s.contexts := rfl
@[simp] theorem State.emit_kernels (s : State) (i : Instr) : (s.emit i).kernels = s.kernels := rfl
@[simp] theorem State.emit_windows (s : State) (i : Instr) : (s.emit i).windows = s.windows := rfl
@[simp] theorem State.emit_counters (s : State) (i : Instr) : (s.emit i).counters = s.counters := rfl
@[simp] theorem State.emit_taskQueues (s : State) (i : Instr) : (s.emit i).taskQueues = s.taskQueues := rfl
@[simp] theorem State.emit_regions (s : State) (i : Instr) : (s.emit i).regions = s.regions := rfl
@[simp] theorem State.emit_yardRecent (s : State) (i : Instr) : (s.emit i).yardRecent = s.yardRecent := rfl
@[simp] theorem State.emit_colls (s : State) (i : Instr) : (s.emit i).colls = s.colls := rfl
@[simp] theorem State.emit_leases (s : State) (i : Instr) : (s.emit i).leases = s.leases := rfl
@[simp] theorem State.emit_leaseBar (s : State) (i : Instr) : (s.emit i).leaseBar = s.leaseBar := rfl
@[simp] theorem State.emit_dieTlb (s : State) (i : Instr) : (s.emit i).dieTlb = s.dieTlb := rfl
@[simp] theorem State.emit_bonds (s : State) (i : Instr) : (s.emit i).bonds = s.bonds := rfl
@[simp] theorem State.emit_cp (s : State) (i : Instr) : (s.emit i).cp = s.cp := rfl
@[simp] theorem State.emit_sys (s : State) (i : Instr) : (s.emit i).sys = s.sys := rfl
@[simp] theorem State.emit_agenda (s : State) (i : Instr) : (s.emit i).agenda = s.agenda := rfl
@[simp] theorem State.emit_inputs (s : State) (i : Instr) : (s.emit i).inputs = s.inputs := rfl
@[simp] theorem State.emit_outbox (s : State) (i : Instr) : (s.emit i).outbox = s.outbox ++ [i] := rfl
@[simp] theorem State.emit_scOrder (s : State) (i : Instr) : (s.emit i).scOrder = s.scOrder := rfl
@[simp] theorem State.emit_moved (s : State) (i : Instr) : (s.emit i).moved = s.moved := rfl
@[simp] theorem State.emit_streams (s : State) (i : Instr) : (s.emit i).streams = s.streams := rfl
@[simp] theorem State.emit_fresh (s : State) (i : Instr) : (s.emit i).fresh = s.fresh := rfl

/-! ## send -/

@[simp] theorem State.send_mcyc (s : State) (c : Option Nat) (i : Instr) : (s.send c i).mcyc = s.mcyc := rfl
@[simp] theorem State.send_node (s : State) (c : Option Nat) (i : Instr) : (s.send c i).node = s.node := rfl
@[simp] theorem State.send_core (s : State) (c : Option Nat) (i : Instr) : (s.send c i).core = s.core := rfl
@[simp] theorem State.send_peers (s : State) (c : Option Nat) (i : Instr) : (s.send c i).peers = s.peers := rfl
@[simp] theorem State.send_hbm (s : State) (c : Option Nat) (i : Instr) : (s.send c i).hbm = s.hbm := rfl
@[simp] theorem State.send_poison (s : State) (c : Option Nat) (i : Instr) : (s.send c i).poison = s.poison := rfl
@[simp] theorem State.send_images (s : State) (c : Option Nat) (i : Instr) : (s.send c i).images = s.images := rfl
@[simp] theorem State.send_contexts (s : State) (c : Option Nat) (i : Instr) : (s.send c i).contexts = s.contexts := rfl
@[simp] theorem State.send_kernels (s : State) (c : Option Nat) (i : Instr) : (s.send c i).kernels = s.kernels := rfl
@[simp] theorem State.send_windows (s : State) (c : Option Nat) (i : Instr) : (s.send c i).windows = s.windows := rfl
@[simp] theorem State.send_counters (s : State) (c : Option Nat) (i : Instr) : (s.send c i).counters = s.counters := rfl
@[simp] theorem State.send_taskQueues (s : State) (c : Option Nat) (i : Instr) : (s.send c i).taskQueues = s.taskQueues := rfl
@[simp] theorem State.send_regions (s : State) (c : Option Nat) (i : Instr) : (s.send c i).regions = s.regions := rfl
@[simp] theorem State.send_yardRecent (s : State) (c : Option Nat) (i : Instr) : (s.send c i).yardRecent = s.yardRecent := rfl
@[simp] theorem State.send_colls (s : State) (c : Option Nat) (i : Instr) : (s.send c i).colls = s.colls := rfl
@[simp] theorem State.send_leases (s : State) (c : Option Nat) (i : Instr) : (s.send c i).leases = s.leases := rfl
@[simp] theorem State.send_leaseBar (s : State) (c : Option Nat) (i : Instr) : (s.send c i).leaseBar = s.leaseBar := rfl
@[simp] theorem State.send_dieTlb (s : State) (c : Option Nat) (i : Instr) : (s.send c i).dieTlb = s.dieTlb := rfl
@[simp] theorem State.send_bonds (s : State) (c : Option Nat) (i : Instr) : (s.send c i).bonds = s.bonds := rfl
@[simp] theorem State.send_cp (s : State) (c : Option Nat) (i : Instr) : (s.send c i).cp = s.cp := rfl
@[simp] theorem State.send_sys (s : State) (c : Option Nat) (i : Instr) : (s.send c i).sys = s.sys := rfl
@[simp] theorem State.send_agenda (s : State) (c : Option Nat) (i : Instr) : (s.send c i).agenda = insertDue s.agenda ⟨s.now + Config.transit s.fresh, c, i⟩ := rfl
@[simp] theorem State.send_inputs (s : State) (c : Option Nat) (i : Instr) : (s.send c i).inputs = s.inputs := rfl
@[simp] theorem State.send_outbox (s : State) (c : Option Nat) (i : Instr) : (s.send c i).outbox = s.outbox := rfl
@[simp] theorem State.send_scOrder (s : State) (c : Option Nat) (i : Instr) : (s.send c i).scOrder = s.scOrder := rfl
@[simp] theorem State.send_moved (s : State) (c : Option Nat) (i : Instr) : (s.send c i).moved = s.moved := rfl
@[simp] theorem State.send_streams (s : State) (c : Option Nat) (i : Instr) : (s.send c i).streams = s.streams := rfl
@[simp] theorem State.send_fresh (s : State) (c : Option Nat) (i : Instr) : (s.send c i).fresh = s.fresh + 1 := rfl

/-! ## onKernel -/

@[simp] theorem State.onKernel_mcyc (s : State) (k : Nat) (f : Kernel → Kernel) : (s.onKernel k f).mcyc = s.mcyc := rfl
@[simp] theorem State.onKernel_node (s : State) (k : Nat) (f : Kernel → Kernel) : (s.onKernel k f).node = s.node := rfl
@[simp] theorem State.onKernel_core (s : State) (k : Nat) (f : Kernel → Kernel) : (s.onKernel k f).core = s.core := rfl
@[simp] theorem State.onKernel_peers (s : State) (k : Nat) (f : Kernel → Kernel) : (s.onKernel k f).peers = s.peers := rfl
@[simp] theorem State.onKernel_hbm (s : State) (k : Nat) (f : Kernel → Kernel) : (s.onKernel k f).hbm = s.hbm := rfl
@[simp] theorem State.onKernel_poison (s : State) (k : Nat) (f : Kernel → Kernel) : (s.onKernel k f).poison = s.poison := rfl
@[simp] theorem State.onKernel_images (s : State) (k : Nat) (f : Kernel → Kernel) : (s.onKernel k f).images = s.images := rfl
@[simp] theorem State.onKernel_contexts (s : State) (k : Nat) (f : Kernel → Kernel) : (s.onKernel k f).contexts = s.contexts := rfl
@[simp] theorem State.onKernel_kernels (s : State) (k : Nat) (f : Kernel → Kernel) : (s.onKernel k f).kernels = s.kernels.map fun j => if j.seq = k then f j else j := rfl
@[simp] theorem State.onKernel_windows (s : State) (k : Nat) (f : Kernel → Kernel) : (s.onKernel k f).windows = s.windows := rfl
@[simp] theorem State.onKernel_counters (s : State) (k : Nat) (f : Kernel → Kernel) : (s.onKernel k f).counters = s.counters := rfl
@[simp] theorem State.onKernel_taskQueues (s : State) (k : Nat) (f : Kernel → Kernel) : (s.onKernel k f).taskQueues = s.taskQueues := rfl
@[simp] theorem State.onKernel_regions (s : State) (k : Nat) (f : Kernel → Kernel) : (s.onKernel k f).regions = s.regions := rfl
@[simp] theorem State.onKernel_yardRecent (s : State) (k : Nat) (f : Kernel → Kernel) : (s.onKernel k f).yardRecent = s.yardRecent := rfl
@[simp] theorem State.onKernel_colls (s : State) (k : Nat) (f : Kernel → Kernel) : (s.onKernel k f).colls = s.colls := rfl
@[simp] theorem State.onKernel_leases (s : State) (k : Nat) (f : Kernel → Kernel) : (s.onKernel k f).leases = s.leases := rfl
@[simp] theorem State.onKernel_leaseBar (s : State) (k : Nat) (f : Kernel → Kernel) : (s.onKernel k f).leaseBar = s.leaseBar := rfl
@[simp] theorem State.onKernel_dieTlb (s : State) (k : Nat) (f : Kernel → Kernel) : (s.onKernel k f).dieTlb = s.dieTlb := rfl
@[simp] theorem State.onKernel_bonds (s : State) (k : Nat) (f : Kernel → Kernel) : (s.onKernel k f).bonds = s.bonds := rfl
@[simp] theorem State.onKernel_cp (s : State) (k : Nat) (f : Kernel → Kernel) : (s.onKernel k f).cp = s.cp := rfl
@[simp] theorem State.onKernel_sys (s : State) (k : Nat) (f : Kernel → Kernel) : (s.onKernel k f).sys = s.sys := rfl
@[simp] theorem State.onKernel_agenda (s : State) (k : Nat) (f : Kernel → Kernel) : (s.onKernel k f).agenda = s.agenda := rfl
@[simp] theorem State.onKernel_inputs (s : State) (k : Nat) (f : Kernel → Kernel) : (s.onKernel k f).inputs = s.inputs := rfl
@[simp] theorem State.onKernel_outbox (s : State) (k : Nat) (f : Kernel → Kernel) : (s.onKernel k f).outbox = s.outbox := rfl
@[simp] theorem State.onKernel_scOrder (s : State) (k : Nat) (f : Kernel → Kernel) : (s.onKernel k f).scOrder = s.scOrder := rfl
@[simp] theorem State.onKernel_moved (s : State) (k : Nat) (f : Kernel → Kernel) : (s.onKernel k f).moved = s.moved := rfl
@[simp] theorem State.onKernel_streams (s : State) (k : Nat) (f : Kernel → Kernel) : (s.onKernel k f).streams = s.streams := rfl
@[simp] theorem State.onKernel_fresh (s : State) (k : Nat) (f : Kernel → Kernel) : (s.onKernel k f).fresh = s.fresh := rfl

/-! ## onCtx -/

@[simp] theorem State.onCtx_mcyc (s : State) (k : Nat) (f : Context → Context) : (s.onCtx k f).mcyc = s.mcyc := rfl
@[simp] theorem State.onCtx_node (s : State) (k : Nat) (f : Context → Context) : (s.onCtx k f).node = s.node := rfl
@[simp] theorem State.onCtx_core (s : State) (k : Nat) (f : Context → Context) : (s.onCtx k f).core = s.core := rfl
@[simp] theorem State.onCtx_peers (s : State) (k : Nat) (f : Context → Context) : (s.onCtx k f).peers = s.peers := rfl
@[simp] theorem State.onCtx_hbm (s : State) (k : Nat) (f : Context → Context) : (s.onCtx k f).hbm = s.hbm := rfl
@[simp] theorem State.onCtx_poison (s : State) (k : Nat) (f : Context → Context) : (s.onCtx k f).poison = s.poison := rfl
@[simp] theorem State.onCtx_images (s : State) (k : Nat) (f : Context → Context) : (s.onCtx k f).images = s.images := rfl
@[simp] theorem State.onCtx_contexts (s : State) (k : Nat) (f : Context → Context) : (s.onCtx k f).contexts = s.contexts.map fun x => if x.id = k then f x else x := rfl
@[simp] theorem State.onCtx_kernels (s : State) (k : Nat) (f : Context → Context) : (s.onCtx k f).kernels = s.kernels := rfl
@[simp] theorem State.onCtx_windows (s : State) (k : Nat) (f : Context → Context) : (s.onCtx k f).windows = s.windows := rfl
@[simp] theorem State.onCtx_counters (s : State) (k : Nat) (f : Context → Context) : (s.onCtx k f).counters = s.counters := rfl
@[simp] theorem State.onCtx_taskQueues (s : State) (k : Nat) (f : Context → Context) : (s.onCtx k f).taskQueues = s.taskQueues := rfl
@[simp] theorem State.onCtx_regions (s : State) (k : Nat) (f : Context → Context) : (s.onCtx k f).regions = s.regions := rfl
@[simp] theorem State.onCtx_yardRecent (s : State) (k : Nat) (f : Context → Context) : (s.onCtx k f).yardRecent = s.yardRecent := rfl
@[simp] theorem State.onCtx_colls (s : State) (k : Nat) (f : Context → Context) : (s.onCtx k f).colls = s.colls := rfl
@[simp] theorem State.onCtx_leases (s : State) (k : Nat) (f : Context → Context) : (s.onCtx k f).leases = s.leases := rfl
@[simp] theorem State.onCtx_leaseBar (s : State) (k : Nat) (f : Context → Context) : (s.onCtx k f).leaseBar = s.leaseBar := rfl
@[simp] theorem State.onCtx_dieTlb (s : State) (k : Nat) (f : Context → Context) : (s.onCtx k f).dieTlb = s.dieTlb := rfl
@[simp] theorem State.onCtx_bonds (s : State) (k : Nat) (f : Context → Context) : (s.onCtx k f).bonds = s.bonds := rfl
@[simp] theorem State.onCtx_cp (s : State) (k : Nat) (f : Context → Context) : (s.onCtx k f).cp = s.cp := rfl
@[simp] theorem State.onCtx_sys (s : State) (k : Nat) (f : Context → Context) : (s.onCtx k f).sys = s.sys := rfl
@[simp] theorem State.onCtx_agenda (s : State) (k : Nat) (f : Context → Context) : (s.onCtx k f).agenda = s.agenda := rfl
@[simp] theorem State.onCtx_inputs (s : State) (k : Nat) (f : Context → Context) : (s.onCtx k f).inputs = s.inputs := rfl
@[simp] theorem State.onCtx_outbox (s : State) (k : Nat) (f : Context → Context) : (s.onCtx k f).outbox = s.outbox := rfl
@[simp] theorem State.onCtx_scOrder (s : State) (k : Nat) (f : Context → Context) : (s.onCtx k f).scOrder = s.scOrder := rfl
@[simp] theorem State.onCtx_moved (s : State) (k : Nat) (f : Context → Context) : (s.onCtx k f).moved = s.moved := rfl
@[simp] theorem State.onCtx_streams (s : State) (k : Nat) (f : Context → Context) : (s.onCtx k f).streams = s.streams := rfl
@[simp] theorem State.onCtx_fresh (s : State) (k : Nat) (f : Context → Context) : (s.onCtx k f).fresh = s.fresh := rfl

/-! ## onWindow -/

@[simp] theorem State.onWindow_mcyc (s : State) (k : WinKey) (f : Window → Window) : (s.onWindow k f).mcyc = s.mcyc := rfl
@[simp] theorem State.onWindow_node (s : State) (k : WinKey) (f : Window → Window) : (s.onWindow k f).node = s.node := rfl
@[simp] theorem State.onWindow_core (s : State) (k : WinKey) (f : Window → Window) : (s.onWindow k f).core = s.core := rfl
@[simp] theorem State.onWindow_peers (s : State) (k : WinKey) (f : Window → Window) : (s.onWindow k f).peers = s.peers := rfl
@[simp] theorem State.onWindow_hbm (s : State) (k : WinKey) (f : Window → Window) : (s.onWindow k f).hbm = s.hbm := rfl
@[simp] theorem State.onWindow_poison (s : State) (k : WinKey) (f : Window → Window) : (s.onWindow k f).poison = s.poison := rfl
@[simp] theorem State.onWindow_images (s : State) (k : WinKey) (f : Window → Window) : (s.onWindow k f).images = s.images := rfl
@[simp] theorem State.onWindow_contexts (s : State) (k : WinKey) (f : Window → Window) : (s.onWindow k f).contexts = s.contexts := rfl
@[simp] theorem State.onWindow_kernels (s : State) (k : WinKey) (f : Window → Window) : (s.onWindow k f).kernels = s.kernels := rfl
@[simp] theorem State.onWindow_windows (s : State) (k : WinKey) (f : Window → Window) : (s.onWindow k f).windows = s.windows.map fun w => if w.key = k then f w else w := rfl
@[simp] theorem State.onWindow_counters (s : State) (k : WinKey) (f : Window → Window) : (s.onWindow k f).counters = s.counters := rfl
@[simp] theorem State.onWindow_taskQueues (s : State) (k : WinKey) (f : Window → Window) : (s.onWindow k f).taskQueues = s.taskQueues := rfl
@[simp] theorem State.onWindow_regions (s : State) (k : WinKey) (f : Window → Window) : (s.onWindow k f).regions = s.regions := rfl
@[simp] theorem State.onWindow_yardRecent (s : State) (k : WinKey) (f : Window → Window) : (s.onWindow k f).yardRecent = s.yardRecent := rfl
@[simp] theorem State.onWindow_colls (s : State) (k : WinKey) (f : Window → Window) : (s.onWindow k f).colls = s.colls := rfl
@[simp] theorem State.onWindow_leases (s : State) (k : WinKey) (f : Window → Window) : (s.onWindow k f).leases = s.leases := rfl
@[simp] theorem State.onWindow_leaseBar (s : State) (k : WinKey) (f : Window → Window) : (s.onWindow k f).leaseBar = s.leaseBar := rfl
@[simp] theorem State.onWindow_dieTlb (s : State) (k : WinKey) (f : Window → Window) : (s.onWindow k f).dieTlb = s.dieTlb := rfl
@[simp] theorem State.onWindow_bonds (s : State) (k : WinKey) (f : Window → Window) : (s.onWindow k f).bonds = s.bonds := rfl
@[simp] theorem State.onWindow_cp (s : State) (k : WinKey) (f : Window → Window) : (s.onWindow k f).cp = s.cp := rfl
@[simp] theorem State.onWindow_sys (s : State) (k : WinKey) (f : Window → Window) : (s.onWindow k f).sys = s.sys := rfl
@[simp] theorem State.onWindow_agenda (s : State) (k : WinKey) (f : Window → Window) : (s.onWindow k f).agenda = s.agenda := rfl
@[simp] theorem State.onWindow_inputs (s : State) (k : WinKey) (f : Window → Window) : (s.onWindow k f).inputs = s.inputs := rfl
@[simp] theorem State.onWindow_outbox (s : State) (k : WinKey) (f : Window → Window) : (s.onWindow k f).outbox = s.outbox := rfl
@[simp] theorem State.onWindow_scOrder (s : State) (k : WinKey) (f : Window → Window) : (s.onWindow k f).scOrder = s.scOrder := rfl
@[simp] theorem State.onWindow_moved (s : State) (k : WinKey) (f : Window → Window) : (s.onWindow k f).moved = s.moved := rfl
@[simp] theorem State.onWindow_streams (s : State) (k : WinKey) (f : Window → Window) : (s.onWindow k f).streams = s.streams := rfl
@[simp] theorem State.onWindow_fresh (s : State) (k : WinKey) (f : Window → Window) : (s.onWindow k f).fresh = s.fresh := rfl

/-! ## memWrite -/

@[simp] theorem State.memWrite_mcyc (s : State) (l : List (Nat × Byte)) : (s.memWrite l).mcyc = s.mcyc := rfl
@[simp] theorem State.memWrite_node (s : State) (l : List (Nat × Byte)) : (s.memWrite l).node = s.node := rfl
@[simp] theorem State.memWrite_core (s : State) (l : List (Nat × Byte)) : (s.memWrite l).core = s.core := rfl
@[simp] theorem State.memWrite_peers (s : State) (l : List (Nat × Byte)) : (s.memWrite l).peers = s.peers := rfl
@[simp] theorem State.memWrite_hbm (s : State) (l : List (Nat × Byte)) : (s.memWrite l).hbm = Sparse.setAll 0 s.hbm l := rfl
@[simp] theorem State.memWrite_poison (s : State) (l : List (Nat × Byte)) : (s.memWrite l).poison = s.poison := rfl
@[simp] theorem State.memWrite_images (s : State) (l : List (Nat × Byte)) : (s.memWrite l).images = s.images := rfl
@[simp] theorem State.memWrite_contexts (s : State) (l : List (Nat × Byte)) : (s.memWrite l).contexts = s.contexts := rfl
@[simp] theorem State.memWrite_kernels (s : State) (l : List (Nat × Byte)) : (s.memWrite l).kernels = s.kernels := rfl
@[simp] theorem State.memWrite_windows (s : State) (l : List (Nat × Byte)) : (s.memWrite l).windows = s.windows := rfl
@[simp] theorem State.memWrite_counters (s : State) (l : List (Nat × Byte)) : (s.memWrite l).counters = s.counters := rfl
@[simp] theorem State.memWrite_taskQueues (s : State) (l : List (Nat × Byte)) : (s.memWrite l).taskQueues = s.taskQueues := rfl
@[simp] theorem State.memWrite_regions (s : State) (l : List (Nat × Byte)) : (s.memWrite l).regions = s.regions := rfl
@[simp] theorem State.memWrite_yardRecent (s : State) (l : List (Nat × Byte)) : (s.memWrite l).yardRecent = s.yardRecent := rfl
@[simp] theorem State.memWrite_colls (s : State) (l : List (Nat × Byte)) : (s.memWrite l).colls = s.colls := rfl
@[simp] theorem State.memWrite_leases (s : State) (l : List (Nat × Byte)) : (s.memWrite l).leases = s.leases := rfl
@[simp] theorem State.memWrite_leaseBar (s : State) (l : List (Nat × Byte)) : (s.memWrite l).leaseBar = s.leaseBar := rfl
@[simp] theorem State.memWrite_dieTlb (s : State) (l : List (Nat × Byte)) : (s.memWrite l).dieTlb = s.dieTlb := rfl
@[simp] theorem State.memWrite_bonds (s : State) (l : List (Nat × Byte)) : (s.memWrite l).bonds = s.bonds := rfl
@[simp] theorem State.memWrite_cp (s : State) (l : List (Nat × Byte)) : (s.memWrite l).cp = s.cp := rfl
@[simp] theorem State.memWrite_sys (s : State) (l : List (Nat × Byte)) : (s.memWrite l).sys = s.sys := rfl
@[simp] theorem State.memWrite_agenda (s : State) (l : List (Nat × Byte)) : (s.memWrite l).agenda = s.agenda := rfl
@[simp] theorem State.memWrite_inputs (s : State) (l : List (Nat × Byte)) : (s.memWrite l).inputs = s.inputs := rfl
@[simp] theorem State.memWrite_outbox (s : State) (l : List (Nat × Byte)) : (s.memWrite l).outbox = s.outbox := rfl
@[simp] theorem State.memWrite_scOrder (s : State) (l : List (Nat × Byte)) : (s.memWrite l).scOrder = s.scOrder := rfl
@[simp] theorem State.memWrite_moved (s : State) (l : List (Nat × Byte)) : (s.memWrite l).moved = s.moved := rfl
@[simp] theorem State.memWrite_streams (s : State) (l : List (Nat × Byte)) : (s.memWrite l).streams = s.streams := rfl
@[simp] theorem State.memWrite_fresh (s : State) (l : List (Nat × Byte)) : (s.memWrite l).fresh = s.fresh := rfl

end Sys2Proof.Machine
end

