-- ==== Sys2Proof/Laws/Memory.lean ====
section
/-! SUPPORT. HBM and the pool: what a read gives after a write, and that every memory operation keeps the canonical form. -/

namespace Sys2Proof.Machine

/-! ## HBM -/

/-- A byte that no write names reads as before. -/
theorem State.memByte_memWrite_of_not_mem (s : State) {kvs : List (Nat × Byte)} {a : Nat} (h : ∀ kv ∈ kvs, kv.1 ≠ a) :
    (s.memWrite kvs).memByte a = s.memByte a := Sparse.get_setAll_of_not_mem 0 kvs s.hbm h

/-- The last write of a byte stands. -/
theorem State.memByte_memWrite_concat (s : State) (kvs : List (Nat × Byte)) (kv : Nat × Byte) (a : Nat) :
    (s.memWrite (kvs ++ [kv])).memByte a = if a = kv.1 then kv.2 else (s.memWrite kvs).memByte a :=
  Sparse.get_setAll_concat 0 s.hbm kvs kv a

theorem State.memByte_memWrite_single (s : State) (k a : Nat) (x : Byte) :
    (s.memWrite [(k, x)]).memByte a = if a = k then x else s.memByte a := Sparse.get_set 0 s.hbm a k x

/-- Writing bytes keeps the canonical form. -/
theorem State.wf_memWrite (s : State) (kvs : List (Nat × Byte)) (h : Memory.wf s.hbm = true) : Memory.wf (s.memWrite kvs).hbm = true :=
  Sparse.wf_setAll 0 kvs h

/-- A store by bursts writes some of its bytes and keeps every other field but the poison. -/
theorem State.memStore_eq (s : State) (kvs : List (Nat × Byte)) : ∃ p l, (∀ kv ∈ l, kv ∈ kvs) ∧
    (s.memStore kvs).1 = { s with poison := p, hbm := Sparse.setAll 0 s.hbm l } :=
  ⟨_, _, fun _ h => (List.mem_filter.mp h).1, rfl⟩

/-- A store by bursts keeps the canonical form. -/
theorem State.wf_memStore (s : State) (kvs : List (Nat × Byte)) (h : Memory.wf s.hbm = true) : Memory.wf (s.memStore kvs).1.hbm = true := by
  obtain ⟨p, l, -, e⟩ := s.memStore_eq kvs
  rw [e]; exact Sparse.wf_setAll 0 l h

theorem State.memByte_memStore_of_not_mem (s : State) {kvs : List (Nat × Byte)} {a : Nat} (h : ∀ kv ∈ kvs, kv.1 ≠ a) :
    (s.memStore kvs).1.memByte a = s.memByte a := by
  obtain ⟨p, l, hl, e⟩ := s.memStore_eq kvs
  rw [e]; exact Sparse.get_setAll_of_not_mem 0 l s.hbm fun kv hkv => h kv (hl kv hkv)

/-- Memory after reset lists nothing, in canonical form. -/
theorem State.reset_wf : Memory.wf State.reset.hbm = true := rfl

/-- Memories that read the same are the same data. -/
theorem Memory.eq_of_read {m n : List Host.Cell} (hm : Memory.wf m = true) (hn : Memory.wf n = true) (h : ∀ a, Sparse.get 0 m a = Sparse.get 0 n a) :
    m = n := Sparse.eq_of_get 0 m n hm hn h

/-! ## The pool (R22, R341) -/

@[simp] theorem Core.logG_place (c : Core) (n off : Nat) : (c.logG n).place off = c.place off := by unfold Core.logG; split <;> rfl
@[simp] theorem Core.logG_pool (c : Core) (n : Nat) : (c.logG n).pool = c.pool := by unfold Core.logG; split <;> rfl

/-- A write logs at most its granule and changes at most its byte of the pool. -/
theorem Core.poolPut_eq (c : Core) (kv : Nat × Byte) : c.poolPut kv = c ∨ ∃ k l, c.place kv.1 = some k ∧
    c.poolPut kv = { c with log := l, pool := Sparse.set 0 c.pool k kv.2 } := by
  unfold Core.poolPut
  cases h : c.place kv.1 with
  | none => exact .inl rfl
  | some k =>
    refine .inr ⟨k, (c.logG (k / 512)).log, rfl, ?_⟩
    simp only [Core.logG]
    split <;> rfl

@[simp] theorem Core.poolPut_place (c : Core) (kv : Nat × Byte) (off : Nat) : (c.poolPut kv).place off = c.place off := by
  obtain h | ⟨k, l, -, h⟩ := c.poolPut_eq kv <;> rw [h]
  rfl

theorem Core.poolByte_poolPut (c : Core) (kv : Nat × Byte) (off : Nat) :
    (c.poolPut kv).poolByte off = if (c.place off).isSome = true ∧ c.place off = c.place kv.1 then kv.2 else c.poolByte off := by
  unfold Core.poolByte
  rw [Core.poolPut_place]
  cases hp : c.place off with
  | none => simp
  | some j =>
    unfold Core.poolPut
    cases hk : c.place kv.1 with
    | none => simp
    | some k => simp [Sparse.get_set]

/-- The bytes a core writes change its pool and its log only. -/
theorem Core.poolWrite_eq (kvs : List (Nat × Byte)) : ∀ c : Core, ∃ p l, c.poolWrite kvs = { c with pool := p, log := l } := by
  induction kvs with
  | nil => intro c; exact ⟨c.pool, c.log, rfl⟩
  | cons kv rest ih =>
    intro c
    obtain ⟨p, l, h⟩ := ih (c.poolPut kv)
    obtain e | ⟨k, m, -, e⟩ := c.poolPut_eq kv
    · exact ⟨p, l, by rw [e] at h; exact (congrArg (List.foldl Core.poolPut · rest) e).trans h⟩
    · exact ⟨p, l, by rw [e] at h; exact (congrArg (List.foldl Core.poolPut · rest) e).trans h⟩

/-- The bytes another agent writes change the pool, and the records of the log that would undo them, and nothing else. -/
theorem Core.poolWriteRemote_eq (kvs : List (Nat × Byte)) : ∀ c : Core, ∃ p l, c.poolWriteRemote kvs = { c with pool := p, log := l } := by
  induction kvs with
  | nil => intro c; exact ⟨c.pool, c.log, rfl⟩
  | cons kv rest ih =>
    intro c
    unfold Core.poolWriteRemote
    rw [List.foldl_cons]
    cases h : c.place kv.1 with
    | none => exact ih c
    | some k =>
      obtain ⟨p, l, e⟩ := ih { c with pool := Sparse.set 0 c.pool k kv.2, log := c.log.map (LogRec.keep k kv.2) }
      exact ⟨p, l, e⟩

/-- A core without a log keeps it empty. -/
theorem Core.poolWriteRemote_log (kvs : List (Nat × Byte)) : ∀ c : Core, c.log = [] → (c.poolWriteRemote kvs).log = [] := by
  induction kvs with
  | nil => intro c h; exact h
  | cons kv rest ih =>
    intro c h
    unfold Core.poolWriteRemote
    rw [List.foldl_cons]
    cases hp : c.place kv.1 with
    | none => exact ih c h
    | some k => exact ih _ (by simp [h])

end Sys2Proof.Machine
end

