-- ==== Sys2Proof/Laws/Num.lean ====
section
/-! SUPPORT. What the integer square root is, for the brackets of the roots (R110). -/

namespace Sys2Proof.Machine

/-- The k low bits of the root, where the rest of it is r. -/
theorem isqrtFrom_spec (k n r : Nat) (h1 : r * r ≤ n) (h2 : n < (r + 2 ^ k) * (r + 2 ^ k)) :
    isqrtFrom k n r * isqrtFrom k n r ≤ n ∧ n < (isqrtFrom k n r + 1) * (isqrtFrom k n r + 1) := by
  induction k generalizing r with
  | zero => exact ⟨h1, h2⟩
  | succ k ih =>
    unfold isqrtFrom
    split
    · refine ih _ ‹_› ?_
      rw [pow_succ] at h2
      rwa [show r + 2 ^ k + 2 ^ k = r + 2 ^ k * 2 by ring]
    · exact ih _ h1 (by omega)

/-- The integer square root is the largest number whose square is not above n. -/
theorem isqrt_spec (n : Nat) : isqrt n * isqrt n ≤ n ∧ n < (isqrt n + 1) * (isqrt n + 1) := by
  refine isqrtFrom_spec _ _ _ (Nat.zero_le _) ?_
  have h : n < 2 ^ (n.log2 + 1) := Nat.lt_log2_self
  calc n < 2 ^ (n.log2 + 1) := h
    _ ≤ 2 ^ ((n.log2 / 2 + 1) + (n.log2 / 2 + 1)) := Nat.pow_le_pow_right (by omega) (by omega)
    _ = (0 + 2 ^ (n.log2 / 2 + 1)) * (0 + 2 ^ (n.log2 / 2 + 1)) := by rw [Nat.zero_add, pow_add]

end Sys2Proof.Machine
end

