-- ==== Sys2Proof/Laws/Registers.lean ====
section
/-! SUPPORT. The register accessors (R13): what each read gives after each write, and that a write of one register file leaves the
rest of the core. -/

namespace Sys2Proof.Machine

/-! ## The registers that read as constants and ignore writes -/

@[simp] theorem Core.rs_zero (c : Core) : c.rs 0 = 0 := rfl
@[simp] theorem Core.rp_zero (c : Core) : c.rp 0 = true := rfl
@[simp] theorem Core.rq_zero (c : Core) : c.rq 0 = BitVec.allOnes 128 := rfl
@[simp] theorem Core.ws_zero (c : Core) (x : W64) : c.ws 0 x = c := rfl
@[simp] theorem Core.wp_zero (c : Core) (x : Bool) : c.wp 0 x = c := rfl
@[simp] theorem Core.wq_zero (c : Core) (m x : BitVec 128) : c.wq 0 m x = c := rfl

/-! ## Reads after writes -/

theorem Core.rs_ws (c : Core) (n m : Nat) (x : W64) : (c.ws n x).rs m = if m = n ∧ n ≠ 0 then x else c.rs m := by
  unfold Core.ws
  by_cases hn : n = 0
  · simp [hn]
  · by_cases hm : m = 0
    · subst hm; simp [hn, Ne.symm hn]
    · simp [hn, hm, Core.rs, Sparse.get_set]

theorem Core.rp_wp (c : Core) (n m : Nat) (x : Bool) : (c.wp n x).rp m = if m = n ∧ n ≠ 0 then x else c.rp m := by
  unfold Core.wp
  by_cases hn : n = 0
  · simp [hn]
  · by_cases hm : m = 0
    · subst hm; simp [hn, Ne.symm hn]
    · simp [hn, hm, Core.rp, Sparse.get_set]

theorem Core.rq_wq (c : Core) (n m : Nat) (mask x : BitVec 128) :
    (c.wq n mask x).rq m = if m = n ∧ n ≠ 0 then (c.rq n &&& ~~~mask) ||| (x &&& mask) else c.rq m := by
  unfold Core.wq
  by_cases hn : n = 0
  · simp [hn]
  · by_cases hm : m = 0
    · subst hm; simp [hn, Ne.symm hn]
    · simp [hn, hm, Core.rq, Sparse.get_set]

theorem Core.ra_wa (c : Core) (n m : Nat) (x : W64) : (c.wa n x).ra m = if m = n then BitVec.ofNat 64 (x.toNat % 2 ^ 46) else c.ra m := by
  simp [Core.wa, Core.ra, Sparse.get_set]
theorem Core.rh_wh (c : Core) (n m : Nat) (x : W64) : (c.wh n x).rh m = if m = n then x else c.rh m := by simp [Core.wh, Core.rh, Sparse.get_set]
theorem Core.rlc_wlc (c : Core) (n m : Nat) (x : W32) : (c.wlc n x).rlc m = if m = n then x else c.rlc m := by
  simp [Core.wlc, Core.rlc, Sparse.get_set]
theorem Core.rfm_wfm (c : Core) (n m : Nat) (x : W32) : (c.wfm n x).rfm m = if m = n then x else c.rfm m := by
  simp [Core.wfm, Core.rfm, Sparse.get_set]
theorem Core.rt_wt (c : Core) (n m : Nat) (x : Token) : (c.wt n x).rt m = if m = n then x else c.rt m := by simp [Core.wt, Core.rt, Sparse.get_set]
theorem Core.rc_wc (c : Core) (n m : Nat) (x : Handle) : (c.wc n x).rc m = if m = n then x else c.rc m := by simp [Core.wc, Core.rc, Sparse.get_set]

/-! ## Frames -/

/-- A destination's write leaves everything of the core but registers, pool state, log and the flags and system registers a `Dst`
names: in particular the sequencer, the engines and what is pending. -/
theorem Core.write_frame (c : Core) (d : Dst) :
    (c.write d).ref = c.ref ∧ (c.write d).kernel = c.kernel ∧ (c.write d).mode = c.mode ∧ (c.write d).run = c.run ∧ (c.write d).pos = c.pos ∧
    (c.write d).pend = c.pend ∧ (c.write d).clk = c.clk ∧ (c.write d).tok = c.tok ∧ (c.write d).hnd = c.hnd ∧ (c.write d).ops = c.ops ∧
    (c.write d).mq = c.mq ∧ (c.write d).brace = c.brace ∧ (c.write d).pool = c.pool := by
  cases d with
  | v n l => cases hg : c.gated (n * 512) <;> cases h : c.logs && !c.logHasV n <;> simp [Core.write, Core.wv, Core.logV, h, hg]
  | z n l =>
    cases hg : c.gated (partRf c.partword * bankBytes + n * 16384) <;> cases h : c.logs && !c.logHasZ n <;>
      simp [Core.write, Core.wz, Core.logZ, h, hg]
  | s n x => by_cases h : n = 0 <;> simp [Core.write, Core.ws, h]
  | p n x => by_cases h : n = 0 <;> simp [Core.write, Core.wp, h]
  | q n m x => by_cases h : n = 0 <;> simp [Core.write, Core.wq, h]
  | _ => simp [Core.write, Core.wa, Core.wh, Core.wlc, Core.wfm, Core.setStatus]

end Sys2Proof.Machine
end

