-- ==== Sys2Proof/Laws/Ops.lean ====
section
/-! SUPPORT. What each shared operation can do: guards, operations that may trap, taking a trap, stopping a kernel, the core in focus and
its peers, and the agenda. -/

namespace Sys2Proof.Machine

/-! ## Guards and scalar forms (R47, R55, R72) -/

@[simp] theorem guarded_true (s : State) (f : State → State) : guarded true s f = .next (f s) := rfl
@[simp] theorem guarded_false (s : State) (f : State → State) : guarded false s f = .next s := rfl

/-- A guarded operation always answers a next state: its effect, or nothing. -/
theorem guarded_cases (g : Bool) (s : State) (f : State → State) {t : State} (h : guarded g s f = .next t) :
    (g = true ∧ t = f s) ∨ (g = false ∧ t = s) := by
  cases g <;> simp_all [guarded]

@[simp] theorem Core.later_pend (c : Core) (sl : Slot) (lat : Nat) (dst : List Dst) (f : Flags) :
    (c.later sl lat dst f).pend = c.pend ++ [⟨c.clk + lat, sl, dst, f⟩] := rfl

/-- An R form that computes: one pending result, or nothing under a false guard. -/
theorem scalarR_cases (f : RForm) (lat : Nat) (res : W64 → W64 → W64 × Flags) (s t : State) (h : scalarR f lat res s = .next t) :
    (s.core.rp f.pg.toNat = false ∧ t = s) ∨
    (s.core.rp f.pg.toNat = true ∧ t = { s with core := { s.core with pend := s.core.pend ++
      [⟨s.core.clk + lat, .s, [.s f.sd.toNat (res (s.core.rs f.sa.toNat) (s.core.rs f.sb.toNat)).1], (res (s.core.rs f.sa.toNat) (s.core.rs f.sb.toNat)).2⟩] } }) := by
  obtain ⟨hg, rfl⟩ | ⟨hg, rfl⟩ := guarded_cases _ _ _ h
  · exact .inr ⟨hg, rfl⟩
  · exact .inl ⟨hg, rfl⟩

/-- An I form that computes. -/
theorem scalarI_cases (f : IForm) (lat : Nat) (y : W64) (res : W64 → W64 → W64 × Flags) (s t : State) (h : scalarI f lat y res s = .next t) :
    (s.core.rp f.pg.toNat = false ∧ t = s) ∨
    (s.core.rp f.pg.toNat = true ∧ t = { s with core := { s.core with pend := s.core.pend ++
      [⟨s.core.clk + lat, .s, [.s f.sd.toNat (res (s.core.rs f.sa.toNat) y).1], (res (s.core.rs f.sa.toNat) y).2⟩] } }) := by
  obtain ⟨hg, rfl⟩ | ⟨hg, rfl⟩ := guarded_cases _ _ _ h
  · exact .inr ⟨hg, rfl⟩
  · exact .inl ⟨hg, rfl⟩

@[simp] theorem State.orTrap_none (s : State) (f : State → State) : s.orTrap none f = f s := rfl
@[simp] theorem State.orTrap_some (s : State) (t : Trap) (f : State → State) : s.orTrap (some t) f = s.takeTrap t := rfl

/-- An operation that may trap takes the trap or has its effect. -/
theorem State.orTrap_cases (s : State) (t : Option Trap) (f : State → State) :
    (t = none ∧ s.orTrap t f = f s) ∨ ∃ x, t = some x ∧ s.orTrap t f = s.takeTrap x := by
  cases t with
  | none => exact .inl ⟨rfl, rfl⟩
  | some x => exact .inr ⟨x, rfl, rfl⟩

/-! ## The agenda -/

theorem mem_insertDue (l : List Due) (d e : Due) : e ∈ insertDue l d ↔ e = d ∨ e ∈ l := by
  induction l with
  | nil => simp [insertDue]
  | cons x rest ih =>
    unfold insertDue
    split
    · simp [ih]; tauto
    · simp

/-- A sorted agenda stays sorted. -/
theorem insertDue_sorted (l : List Due) (d : Due) (h : l.Pairwise fun a b => a.at_ ≤ b.at_) : (insertDue l d).Pairwise fun a b => a.at_ ≤ b.at_ := by
  induction l with
  | nil => simp [insertDue]
  | cons x rest ih =>
    rw [List.pairwise_cons] at h
    unfold insertDue
    split
    · rw [List.pairwise_cons]
      refine ⟨fun y hy => ?_, ih h.2⟩
      obtain rfl | hy := (mem_insertDue rest d y).mp hy
      · assumption
      · exact h.1 y hy
    · rw [List.pairwise_cons, List.pairwise_cons]
      refine ⟨fun y hy => ?_, h⟩
      rcases List.mem_cons.mp hy with rfl | hy
      · omega
      · have := h.1 y hy; omega

/-! ## Cores -/

@[simp] theorem State.coreAt_self (s : State) : s.coreAt s.core.ref = s.core := by simp [State.coreAt]

theorem State.onCore_self (s : State) (f : Core → Core) : s.onCore s.core.ref f = s.mapCore f := by simp [State.onCore]

/-- Changing a core changes the core in focus or the peers, and nothing else. -/
theorem State.onCore_eq (s : State) (r : Nat) (f : Core → Core) : ∃ c ps, s.onCore r f = { s with core := c, peers := ps } := by
  unfold State.onCore
  split
  · exact ⟨f s.core, s.peers, rfl⟩
  · exact ⟨s.core, _, rfl⟩

/-- Turning to a core changes the core in focus and the peers only. -/
theorem State.focus_eq (s : State) (r : Nat) : ∃ c ps, s.focus r = { s with core := c, peers := ps } := by
  unfold State.focus
  split
  · exact ⟨s.core, s.peers, rfl⟩
  · exact ⟨_, _, rfl⟩

@[simp] theorem State.onCore_hbm (s : State) (r : Nat) (f : Core → Core) : (s.onCore r f).hbm = s.hbm := by
  obtain ⟨c, ps, h⟩ := s.onCore_eq r f; rw [h]
@[simp] theorem State.focus_hbm (s : State) (r : Nat) : (s.focus r).hbm = s.hbm := by
  obtain ⟨c, ps, h⟩ := s.focus_eq r; rw [h]

/-- Several cores changed. -/
theorem State.onCores_eq (f : Core → Core) (rs : List Nat) : ∀ s : State, ∃ c ps, rs.foldl (fun s r => s.onCore r f) s = { s with core := c, peers := ps } := by
  induction rs with
  | nil => intro s; exact ⟨s.core, s.peers, rfl⟩
  | cons r rest ih =>
    intro s
    obtain ⟨c, ps, h⟩ := s.onCore_eq r f
    obtain ⟨c', ps', h'⟩ := ih (s.onCore r f)
    exact ⟨c', ps', by rw [List.foldl_cons, h', h]⟩

/-! ## Stopping a kernel and taking a trap (R345, R349, R353) -/

/-- An advance of STEP changes its context, and the agenda by the sweeps that it makes due. -/
theorem State.advanceStep_eq (s : State) (ctx core : Nat) (n : W64) : ∃ xs ag, s.advanceStep ctx core n = { s with contexts := xs, agenda := ag } := by
  have sweeps : ∀ (l : List Nat) (t : State), ∃ ag, l.foldl (fun t b => t.after 0 none (.sweepPassStart ctx b)) t = { t with agenda := ag } := by
    intro l
    induction l with
    | nil => intro t; exact ⟨t.agenda, rfl⟩
    | cons b rest ih =>
      intro t
      obtain ⟨ag, h⟩ := ih (t.after 0 none (.sweepPassStart ctx b))
      exact ⟨ag, by rw [List.foldl_cons, h]; rfl⟩
  have body : ∀ (old : Nat) (u : State), ∃ ag, (if old / 2 ^ 21 = (old + n.toNat) / 2 ^ 21 then u
      else (List.range 8).foldl (fun t b => t.after 0 none (.sweepPassStart ctx b)) u) = { u with agenda := ag } := by
    intro old u
    split
    · exact ⟨u.agenda, rfl⟩
    · exact sweeps _ u
  obtain ⟨ag, h⟩ := body _ (s.onCtx ctx _)
  exact ⟨_, ag, h⟩

/-- The advances that a core has released added: its cores, the contexts and the agenda change, and nothing else. -/
theorem State.addSteps_eq (s : State) (r : Nat) : ∃ c ps xs ag,
    s.addSteps r = { s with core := c, peers := ps, contexts := xs, agenda := ag } := by
  unfold State.addSteps
  dsimp only
  split
  · exact ⟨s.core, s.peers, s.contexts, s.agenda, rfl⟩
  · split
    · rename_i k _
      obtain ⟨xs, ag, h⟩ := s.advanceStep_eq k.ctx r (BitVec.ofNat 64 (s.coreAt r).stepsOut)
      obtain ⟨c, ps, e⟩ := State.onCore_eq (s.advanceStep k.ctx r (BitVec.ofNat 64 (s.coreAt r).stepsOut)) r fun c => { c with stepsOut := 0 }
      exact ⟨c, ps, xs, ag, by rw [e, h]⟩
    · exact ⟨s.core, s.peers, s.contexts, s.agenda, rfl⟩

/-- The cores stopped one after the other, each with the time of the state. -/
theorem State.killCores_eq (k : Kernel) (rs : List Nat) : ∀ s : State, ∃ c ps xs ag,
    rs.foldl (fun s r => (s.addSteps r).onCore r fun c => (c.endTrace k.trace s.mcyc).kill s.now k.isTake) s =
      { s with core := c, peers := ps, contexts := xs, agenda := ag } := by
  induction rs with
  | nil => intro s; exact ⟨s.core, s.peers, s.contexts, s.agenda, rfl⟩
  | cons r rest ih =>
    intro s
    obtain ⟨c, ps, xs, ag, h⟩ := s.addSteps_eq r
    obtain ⟨c', ps', h'⟩ := (s.addSteps r).onCore_eq r fun c => (c.endTrace k.trace s.mcyc).kill s.now k.isTake
    obtain ⟨c'', ps'', xs'', ag'', h''⟩ := ih ((s.addSteps r).onCore r fun c => (c.endTrace k.trace s.mcyc).kill s.now k.isTake)
    exact ⟨c'', ps'', xs'', ag'', by rw [List.foldl_cons, h'', h', h]⟩

/-- Stopping a kernel changes its cores, the kernels, the STEP that its cores had still to add, and the agenda, and nothing else. -/
theorem State.stopKernel_eq (s : State) (seq : Nat) (how : KEnd) : ∃ c ps xs ks ag,
    s.stopKernel seq how = { s with core := c, peers := ps, contexts := xs, kernels := ks, agenda := ag } := by
  unfold State.stopKernel
  split
  · exact ⟨s.core, s.peers, s.contexts, s.kernels, s.agenda, rfl⟩
  · rename_i k _
    split
    · exact ⟨s.core, s.peers, s.contexts, s.kernels, s.agenda, rfl⟩
    · obtain ⟨c, ps, xs, ag, h⟩ := State.killCores_eq k k.cores s
      simp only [h]
      exact ⟨c, ps, xs, _, _, rfl⟩

/-- A context fault changes the cores, the contexts' STEP, the kernels and the agenda, and nothing else. -/
theorem State.faultKernel_eq (s : State) (seq : Nat) (r : FaultRecord) : ∃ c ps xs ks ag,
    s.faultKernel seq r = { s with core := c, peers := ps, contexts := xs, kernels := ks, agenda := ag } := by
  obtain ⟨c, ps, xs, ks, ag, h⟩ := State.stopKernel_eq (s.onKernel seq fun k => if k.ending.isSome then k else { k with record := some r }) seq .faulted
  exact ⟨c, ps, xs, ks, ag, by unfold State.faultKernel; rw [h]; rfl⟩

theorem State.contextFault_eq (s : State) (cause : Nat) (t : Trap) : ∃ c ps xs ks ag,
    s.contextFault cause t = { s with core := c, peers := ps, contexts := xs, kernels := ks, agenda := ag } := by
  unfold State.contextFault
  split
  · exact ⟨s.core, s.peers, s.contexts, s.kernels, s.agenda, rfl⟩
  · exact State.faultKernel_eq _ _ _

/-- A trap changes the cores, the contexts' STEP, the kernels and the agenda, and nothing else; without a kernel it does nothing. -/
theorem State.takeTrap_eq (s : State) (t : Trap) : ∃ c ps xs ks ag,
    s.takeTrap t = { s with core := c, peers := ps, contexts := xs, kernels := ks, agenda := ag } := by
  unfold State.takeTrap
  split
  · exact ⟨s.core, s.peers, s.contexts, s.kernels, s.agenda, rfl⟩
  · split
    · exact State.contextFault_eq _ _ _
    · split
      · exact State.contextFault_eq _ _ _
      · unfold State.trace
        split
        · exact ⟨_, s.peers, s.contexts, s.kernels, s.agenda, rfl⟩
        · exact ⟨_, s.peers, s.contexts, s.kernels, s.agenda, rfl⟩

@[simp] theorem State.stopKernel_hbm (s : State) (seq : Nat) (how : KEnd) : (s.stopKernel seq how).hbm = s.hbm := by
  obtain ⟨c, ps, xs, ks, ag, h⟩ := s.stopKernel_eq seq how; rw [h]
@[simp] theorem State.faultKernel_hbm (s : State) (seq : Nat) (r : FaultRecord) : (s.faultKernel seq r).hbm = s.hbm := by
  obtain ⟨c, ps, xs, ks, ag, h⟩ := s.faultKernel_eq seq r; rw [h]
@[simp] theorem State.contextFault_hbm (s : State) (cause : Nat) (t : Trap) : (s.contextFault cause t).hbm = s.hbm := by
  obtain ⟨c, ps, xs, ks, ag, h⟩ := s.contextFault_eq cause t; rw [h]
@[simp] theorem State.takeTrap_hbm (s : State) (t : Trap) : (s.takeTrap t).hbm = s.hbm := by
  obtain ⟨c, ps, xs, ks, ag, h⟩ := s.takeTrap_eq t; rw [h]
@[simp] theorem State.trace_hbm (s : State) (kind data : Nat) (p : Position) : (s.trace kind data p).hbm = s.hbm := by
  unfold State.trace; split <;> rfl
@[simp] theorem State.settle_hbm (s : State) : s.settle.hbm = s.hbm := by unfold State.settle; split <;> simp

/-- What a record in the journal changes. -/
theorem State.journal_eq (s : State) (r : JRecord) : ∃ cp, s.journal r = { s with cp := cp } := by
  unfold State.journal; dsimp only; split <;> exact ⟨_, rfl⟩

@[simp] theorem State.journal_hbm (s : State) (r : JRecord) : (s.journal r).hbm = s.hbm := by
  obtain ⟨cp, h⟩ := s.journal_eq r; rw [h]

/-- A core that has nothing of handler mode on its way, and is not on its way back to its rollback target, rolls back to its brace as it
stands. -/
theorem Core.settleLeft_renew (c : Core) (h : c.left = []) (hr : (c.reissue && !c.mode) = false) : c.settleLeft.renew = c := by
  have h1 : c.settleLeft = c := by unfold Core.settleLeft; rw [h]; simp only [List.foldl_nil]; rw [← h]
  rw [h1]; unfold Core.renew; rw [hr]; rfl

/-- Rollback restores the registers of the brace, as what handler mode has left has settled in it, and the state of the sequencer. -/
theorem Core.rollback_regs (c : Core) : let d := c.settleLeft.renew
    c.rollback.s = d.brace.s ∧ c.rollback.p = d.brace.p ∧ c.rollback.q = d.brace.q ∧ c.rollback.a = d.brace.a ∧
    c.rollback.h = d.brace.h ∧ c.rollback.lc = d.brace.lc ∧ c.rollback.fm = d.brace.fm ∧ c.rollback.pend = [] ∧ c.rollback.run = .running ∧
    c.rollback.log = d.log.filter (fun r => r.ivl != d.interval) := ⟨rfl, rfl, rfl, rfl, rfl, rfl, rfl, rfl, rfl, rfl⟩

/-- What results that land leave alone: the results on their way, the clock, and whose core it is. -/
def Core.sameBut (c d : Core) : Prop :=
  d.pend = c.pend ∧ d.clk = c.clk ∧ d.ref = c.ref ∧ d.kernel = c.kernel ∧ d.mode = c.mode ∧ d.pool = c.pool

theorem Core.sameBut.rfl {c : Core} : c.sameBut c := ⟨Eq.refl _, Eq.refl _, Eq.refl _, Eq.refl _, Eq.refl _, Eq.refl _⟩

theorem Core.sameBut.trans {c d e : Core} (h : c.sameBut d) (g : d.sameBut e) : c.sameBut e :=
  ⟨g.1.trans h.1, g.2.1.trans h.2.1, g.2.2.1.trans h.2.2.1, g.2.2.2.1.trans h.2.2.2.1, g.2.2.2.2.1.trans h.2.2.2.2.1,
   g.2.2.2.2.2.trans h.2.2.2.2.2⟩

theorem Core.write_sameBut (c : Core) (d : Dst) : c.sameBut (c.write d) := by
  obtain ⟨h1, h2, h3, -, -, h6, h7, -, -, -, -, -, h13⟩ := c.write_frame d
  exact ⟨h6, h7, h1, h2, h3, h13⟩

theorem Core.writeKept_sameBut (c : Core) (d : Dst) : c.sameBut (c.writeKept d) := by
  obtain ⟨h1, h2, -, -, -, h6, h7, -, -, -, -, -, h13⟩ := ({ c with mode := true } : Core).write_frame d
  exact ⟨h6, h7, h1, h2, Eq.refl _, h13⟩

/-- A fold of steps that each leave these alone leaves them alone. -/
theorem Core.foldl_sameBut {α : Type} (f : Core → α → Core) (hf : ∀ (c : Core) (x : α), c.sameBut (f c x)) (l : List α) (c : Core) :
    c.sameBut (l.foldl f c) := by
  induction l generalizing c with
  | nil => exact .rfl
  | cons x rest ih => exact (hf c x).trans (ih (f c x))

theorem Core.land_sameBut (c : Core) (p : Pending) : c.sameBut (c.land p) := Core.foldl_sameBut _ Core.write_sameBut p.dst c
theorem Core.landKept_sameBut (c : Core) (p : Pending) : c.sameBut (c.landKept p) := Core.foldl_sameBut _ Core.writeKept_sameBut p.dst c

/-- Results that are due leave what is not, and the clock. -/
theorem Core.landDue_frame (c : Core) (sel : Slot → Bool) :
    (c.landDue sel).pend = c.pend.filter (fun p => !(sel p.slot && decide (p.due ≤ c.clk))) ∧ (c.landDue sel).clk = c.clk ∧
    (c.landDue sel).ref = c.ref ∧ (c.landDue sel).kernel = c.kernel ∧ (c.landDue sel).mode = c.mode ∧ (c.landDue sel).pool = c.pool :=
  (Core.foldl_sameBut _ Core.landKept_sameBut _ _).trans (Core.foldl_sameBut _ Core.land_sameBut _ _)

end Sys2Proof.Machine
end

