-- ==== Sys2Proof/Tests/Slice0.lean ====
section
/-! SUPPORT. Tests of the model's own: ill-formed terms, words written out from the encoding tables, results the manual states, and
for every statement a state and operands that meet its hypotheses. -/

namespace Sys2Proof.Tests

open Sys2Proof Sys2Proof.Machine Sys2Proof.Claims

set_option exponentiation.threshold 2048
set_option maxRecDepth 20000

/-! ## Well-formedness: a term for each check, which the check refuses -/

/-- Reserved fields, opcodes' field rules, guards and types (R46 to R59, R70). -/
theorem test_ill_formed_fields : [
    (Instr.nop .header), .cmp ⟨16, 0, 0, 0, 0⟩, .cmp ⟨0, 0, 0, 0, 6⟩, .add ⟨1, 2, 3, 0, 1⟩, .clz ⟨1, 2, 3, 0, 0⟩, .awr ⟨16, 2, 0, 0, 0⟩,
    .hunpin ⟨1, 0, 0, 0, 0⟩, .shlI ⟨1, 2, 0, 64⟩, .movi ⟨1, 2, 0, 0⟩, .lds ⟨1, 2, 0, 0x8000000⟩, .ftset ⟨0, 0, 0, 0x40⟩, .getsr ⟨1, 0, 0, 0x100⟩,
    .jmp ⟨1, false, 0⟩, .lend ⟨4, false, 0⟩, .vadd ⟨.va, 0, 3, 1, 2, 0, 0⟩, .vadd ⟨.va, 1, 3, 1, 2, 0, 7⟩, .vabs ⟨.va, 1, 3, 1, 2, 0, 0⟩,
    .vxcrs ⟨.vb, 1, 3, 1, 0, 0, 0⟩, .vld ⟨.va, 1, 3, 16, 0, 0, 0⟩, .vzrd ⟨.va, 1, 3, 256, 0, 0, 0⟩, .vwmrg ⟨.va, 1, 3, 1, 0, 0, 0⟩,
    .mgath ⟨1, 0, 0, 0, 0, 0, 0⟩, .mzero ⟨1, 1, 0, 0, 0, 0, 0⟩, .cpbay ⟨.c0, 1, 2, 3, 0, 0, 0, 0⟩, .fence ⟨.c0, 20, 0, 0, 0, 0, 0, 0⟩,
    .hget ⟨.c0, 16, 2, 3, 0, 0, 0, 0⟩, .coll ⟨.c1, 0, 1, 0, 0, 0, 0, 0⟩, .send ⟨0, 1, 1, 0⟩ ].all (fun i => !i.wf) = true := by decide

/-- An operation that only C1 may carry, in C0 (R54). -/
theorem test_ill_formed_unit : (Instr.coll ⟨.c0, 0, 0, 3, 0, 0, 0, 0⟩).wf = false ∧ (Instr.coll ⟨.c1, 0, 0, 3, 0, 0, 0, 0⟩).wf = true := by decide

/-- An access that is ill-formed only by its key. -/
def badAccess : Access :=
  ⟨⟨8, 0, 0⟩, 0, ⟨0, 0, 0, 0, 1⟩, 0x42, 0, true, 0, 4, 0, 0, false, 0, 0, 0, 0, [], true, false, [], 0, none, none, 0, [], none⟩

/-- Events whose payload names no unit, core, window, port or reason of the module (R1, R9, R70, R178, R243, R320, R360, R387). -/
theorem test_ill_formed_payloads : (
    [Instr.illegalEncoding ⟨0, 0, .s⟩, .illegalEncoding ⟨0x0E, 0, .s⟩, .remoteAccessArrival badAccess, .targetAwayRetry badAccess,
      .wfenceArrival ⟨⟨0, 65536, 0⟩, 0, 0, 0, false⟩, .postArrival ⟨⟨0, 0, 256⟩, 0, 0, 0, false⟩, .completionNoticeArrival ⟨⟨8, 0, 0⟩, 0, 0, 0, false⟩,
      .lockRequestArrival ⟨⟨8, 0, 0⟩, 0, true, 0, 0⟩, .unlockArrival ⟨⟨8, 0, 0⟩, 0, true, 0, 0⟩, .lockRetry ⟨⟨8, 0, 0⟩, 0, true, 0, 0⟩,
      .lockBreak ⟨8, 0, 0⟩, .counterIncrement ⟨1, 8, 0, 0, 0, 0, false, []⟩, .triggerFire 1536 0, .triggerFire 0 256, .bayAtomicOp 1536 0,
      .circuitEntryArrival ⟨1536, 0, 0, []⟩, .doneNoticeArrival ⟨⟨8, 0, 0⟩, 0, [], 0, 0⟩, .collFinishedArrival ⟨⟨8, 0, 0⟩, 0, [], 0, 0⟩] : List Instr).all
      (fun i => !i.wf) = true ∧
    ([.collAbortArrival ⟨⟨8, 0, 0⟩, 0, [], 0, 0⟩, .collDeadline ⟨⟨8, 0, 0⟩, 0, [], 0, 0⟩, .relayBatchTurn ⟨65536, 0⟩, .flipFenceAck ⟨0, 256⟩ 0 .c0,
      .flipFenceAck ⟨0, 0⟩ 1536 .c0, .relayCopy ⟨65536, 0⟩, .relayFinish ⟨65536, 0⟩, .epochAdvance ⟨65536, 0⟩, .sweepPassStart 0 8, .sweepLineStep 0 8,
      .streamedBundle 8 0 0, .unitFence (.bay 8), .unitFence (.core 0 192), .sramSoftError (.corrected (.engine 8 0 .c0)), .sramSoftError (.entry 8 1 0), .sramUncorrectableError (.port 0 4),
      .linkRetrainTimeout 18, .linkRetrainStart 18, .thermalTrip 9, .submissionQueueTailWrite 16 0 4 0, .submissionQueueTailWrite 0 0 3 0,
      .submissionQueueTailWrite 0 0 13 0, .unitFence (.channel 0 64), .unitFence (.link 18)] : List Instr).all (fun i => !i.wf) = true := by
  constructor <;> decide

/-! ## Decoding: words written out from the encoding tables -/

/-- R45, R46: no-ops and the two header bits. -/
theorem test_decode_header : decodeTableWord 8 0 = some (.nop .s) ∧ decodeTableWord 8 1 = some .brace ∧ decodeTableWord 8 2 = some .tmark ∧
    decodeTableWord 8 4 = none := by decide


/-- S slot, from R48 and R55: OP at 48, then SD, SA, SB, PG, FN (R); SD, SA, PG, IMM (I); PG, PS, TGT (B). -/
theorem test_decode_scalar_0 : ([
    (0x1F52BCC000000, .add ⟨61, 18, 47, 3, 0⟩),
    (0x2F52BCC000000, .sub ⟨61, 18, 47, 3, 0⟩),
    (0x3F52BCC000000, .mul ⟨61, 18, 47, 3, 0⟩),
    (0x4F52BCC400000, .mulh ⟨61, 18, 47, 3, 1⟩),
    (0x5F52BCC400000, .div ⟨61, 18, 47, 3, 1⟩),
    (0x6F52BCC400000, .rem ⟨61, 18, 47, 3, 1⟩),
    (0x716884C000000, .and ⟨5, 40, 33, 3, 0⟩),
    (0x816884C000000, .or ⟨5, 40, 33, 3, 0⟩),
    (0x916884C000000, .xor ⟨5, 40, 33, 3, 0⟩),
    (0xA16884C000000, .andn ⟨5, 40, 33, 3, 0⟩),
    (0xB16884C000000, .shl ⟨5, 40, 33, 3, 0⟩),
    (0xC16884C000000, .shr ⟨5, 40, 33, 3, 0⟩),
    (0xD16884C000000, .sra ⟨5, 40, 33, 3, 0⟩),
    (0xE16884C000000, .rot ⟨5, 40, 33, 3, 0⟩),
    (0xFF52BCC400000, .min ⟨61, 18, 47, 3, 1⟩),
    (0x10F52BCC400000, .max ⟨61, 18, 47, 3, 1⟩),
    (0x11F5200C000000, .clz ⟨61, 18, 0, 3, 0⟩),
    (0x12F5200C000000, .popc ⟨61, 18, 0, 3, 0⟩),
    (0x13F52BCEC00000, .sel ⟨61, 18, 47, 3, 11⟩),
    (0x14352BCD400000, .cmp ⟨13, 18, 47, 3, 5⟩),
    (0x1526100C000000, .awr ⟨9, 33, 0, 3, 0⟩),
    (0x1684900C000000, .ard ⟨33, 9, 0, 3, 0⟩),
    (0x1726100C000000, .ainc ⟨9, 33, 0, 3, 0⟩),
    (0x21F153FFFFFF00, .addI ⟨60, 21, 3, 0xFFFFFF00⟩),
    (0x22F153FFFFFF01, .subI ⟨60, 21, 3, 0xFFFFFF01⟩) ] : List (Nat × Instr)).all
    (fun e => decodeTableWord 64 (e.1 * 2 ^ 8) == some e.2) = true := by decide

/-- S slot, from R48 and R55: OP at 48, then SD, SA, SB, PG, FN (R); SD, SA, PG, IMM (I); PG, PS, TGT (B). -/
theorem test_decode_scalar_1 : ([
    (0x23F153FFFFFF02, .mulI ⟨60, 21, 3, 0xFFFFFF02⟩),
    (0x24F153FFFFFF03, .mulhI ⟨60, 21, 3, 0xFFFFFF03⟩),
    (0x25F153FFFFFF04, .divI ⟨60, 21, 3, 0xFFFFFF04⟩),
    (0x26F153FFFFFF05, .remI ⟨60, 21, 3, 0xFFFFFF05⟩),
    (0x27F153FFFFFF06, .andI ⟨60, 21, 3, 0xFFFFFF06⟩),
    (0x28F153FFFFFF07, .orI ⟨60, 21, 3, 0xFFFFFF07⟩),
    (0x29F153FFFFFF08, .xorI ⟨60, 21, 3, 0xFFFFFF08⟩),
    (0x2AF153FFFFFF09, .andnI ⟨60, 21, 3, 0xFFFFFF09⟩),
    (0x2BF1530000003F, .shlI ⟨60, 21, 3, 0x3F⟩),
    (0x2CF15300000001, .shrI ⟨60, 21, 3, 0x1⟩),
    (0x2DF15300000020, .sraI ⟨60, 21, 3, 0x20⟩),
    (0x2EF15300000011, .rotI ⟨60, 21, 3, 0x11⟩),
    (0x2FF15380000000, .minI ⟨60, 21, 3, 0x80000000⟩),
    (0x30F1537FFFFFFF, .maxI ⟨60, 21, 3, 0x7FFFFFFF⟩),
    (0x372403FFFFFF80, .aincI ⟨9, 0, 3, 0xFFFFFF80⟩),
    (0x3E10000103F000, .movi ⟨4, 0, 0, 0x103F000⟩),
    (0x3F10000000021A, .movhi ⟨4, 0, 0, 0x21A⟩),
    (0x40F52BCC400000, .fadd ⟨61, 18, 47, 3, 1⟩),
    (0x41F52BCC400000, .fmul ⟨61, 18, 47, 3, 1⟩),
    (0x42F52BCC400000, .ffma ⟨61, 18, 47, 3, 1⟩),
    (0x43F52BCC000000, .fmin ⟨61, 18, 47, 3, 0⟩),
    (0x44F52BCC000000, .fmax ⟨61, 18, 47, 3, 0⟩),
    (0x45352BCD000000, .fcmp ⟨13, 18, 47, 3, 4⟩),
    (0x46F5200CC00000, .cvtif ⟨61, 18, 0, 3, 3⟩),
    (0x47F5200C800000, .cvtfi ⟨61, 18, 0, 3, 2⟩) ] : List (Nat × Instr)).all
    (fun e => decodeTableWord 64 (e.1 * 2 ^ 8) == some e.2) = true := by decide

/-- S slot, from R48 and R55: OP at 48, then SD, SA, SB, PG, FN (R); SD, SA, PG, IMM (I); PG, PS, TGT (B). -/
theorem test_decode_scalar_2 : ([
    (0x50F09306FFFFF8, .lds ⟨60, 9, 3, 0x6FFFFF8⟩),
    (0x51F09303000010, .sts ⟨60, 9, 3, 0x3000010⟩),
    (0x52389300000008, .hld ⟨14, 9, 3, 0x8⟩),
    (0x53389300FFFFF8, .hst ⟨14, 9, 3, 0xFFFFF8⟩),
    (0x5438D00C000000, .hmov ⟨14, 13, 0, 3, 0⟩),
    (0x55B0D00C000000, .hpin ⟨44, 13, 0, 3, 0⟩),
    (0x5600D00C000000, .hunpin ⟨0, 13, 0, 3, 0⟩),
    (0x5738000C000000, .hnull ⟨14, 0, 0, 3, 0⟩),
    (0x60380000000009, .br ⟨3, true, 0x9⟩),
    (0x61040000050007, .jmp ⟨0, false, 0x40000050007⟩),
    (0x62C0000000FFFF, .call ⟨12, false, 0xFFFF⟩),
    (0x6303F00C000000, .ret ⟨0, 63, 0, 3, 0⟩),
    (0x640D5300000064, .loop ⟨3, 21, 3, 0x64⟩),
    (0x65200000000004, .lend ⟨2, false, 0x4⟩),
    (0x6600000C000000, .halt ⟨0, 0, 0, 3, 0⟩),
    (0x6700030000004D, .trap ⟨0, 0, 3, 0x4D⟩),
    (0x6800000C000000, .tret ⟨0, 0, 0, 3, 0⟩),
    (0x6900000C000000, .yield ⟨0, 0, 0, 3, 0⟩),
    (0x8002D00C000000, .twait ⟨0, 45, 0, 3, 0⟩),
    (0x8136D00C000000, .ttest ⟨13, 45, 0, 3, 0⟩),
    (0x8202D00C000000, .sleept ⟨0, 45, 0, 3, 0⟩),
    (0x83F6D00C000000, .tprom ⟨61, 45, 0, 3, 0⟩),
    (0x8401E00C000000, .waitl ⟨0, 30, 0, 3, 0⟩),
    (0x8501E00C000000, .waitr ⟨0, 30, 0, 3, 0⟩),
    (0x90F00300000011, .getsr ⟨60, 0, 3, 0x11⟩) ] : List (Nat × Instr)).all
    (fun e => decodeTableWord 64 (e.1 * 2 ^ 8) == some e.2) = true := by decide

/-- S slot, from R48 and R55: OP at 48, then SD, SA, SB, PG, FN (R); SD, SA, PG, IMM (I); PG, PS, TGT (B). -/
theorem test_decode_scalar_3 : ([
    (0x9101530000000B, .setsr ⟨0, 21, 3, 0xB⟩),
    (0x9200030000033F, .ftset ⟨0, 0, 3, 0x33F⟩),
    (0x9339200C000000, .ftld ⟨14, 18, 0, 3, 0⟩),
    (0x94000300010000, .stepadv ⟨0, 0, 3, 0x10000⟩),
    (0x9501200C000000, .kest ⟨0, 18, 0, 3, 0⟩) ] : List (Nat × Instr)).all
    (fun e => decodeTableWord 64 (e.1 * 2 ^ 8) == some e.2) = true := by decide

/-- VA slot, from R49, R56 and R57: OP, CM, VD, VA, VB, QG, TY. -/
theorem test_decode_vector_0 : ([
    (0x1A5002406403228, .vadd ⟨.va, 0xA5, 9, 100, 200, 5, 0⟩),
    (0x2A5002406503269, .vsub ⟨.va, 0xA5, 9, 101, 201, 5, 1⟩),
    (0x3A50024066032AA, .vmul ⟨.va, 0xA5, 9, 102, 202, 5, 2⟩),
    (0x4A500240640322B, .vfma ⟨.va, 0xA5, 9, 100, 200, 5, 3⟩),
    (0x5A500240640322C, .vfms ⟨.va, 0xA5, 9, 100, 200, 5, 4⟩),
    (0x6A500240640322D, .vmin ⟨.va, 0xA5, 9, 100, 200, 5, 5⟩),
    (0x7A500240640322E, .vmax ⟨.va, 0xA5, 9, 100, 200, 5, 6⟩),
    (0x8A5002406400029, .vabs ⟨.va, 0xA5, 9, 100, 0, 5, 1⟩),
    (0x9A500240640002B, .vneg ⟨.va, 0xA5, 9, 100, 0, 5, 3⟩),
    (0xAA50024000FFFAE, .vmovi ⟨.va, 0xA5, 9, 0, 16382, 5, 6⟩),
    (0x40A5002406403228, .vand ⟨.va, 0xA5, 9, 100, 200, 5, 0⟩),
    (0x41A5002406403228, .vor ⟨.va, 0xA5, 9, 100, 200, 5, 0⟩),
    (0x42A5002406403228, .vxor ⟨.va, 0xA5, 9, 100, 200, 5, 0⟩),
    (0x43A5002406400028, .vnot ⟨.va, 0xA5, 9, 100, 0, 5, 0⟩),
    (0x44A5002406403229, .vshl ⟨.va, 0xA5, 9, 100, 200, 5, 1⟩),
    (0x45A500240640322A, .vshr ⟨.va, 0xA5, 9, 100, 200, 5, 2⟩),
    (0x46A500240640322D, .vsra ⟨.va, 0xA5, 9, 100, 200, 5, 5⟩),
    (0x47A500240640002E, .vpopc ⟨.va, 0xA5, 9, 100, 0, 5, 6⟩),
    (0x48A5002406400029, .vclz ⟨.va, 0xA5, 9, 100, 0, 5, 1⟩),
    (0x49A5002406403238, .vsel ⟨.va, 0xA5, 9, 100, 200, 7, 0⟩) ] : List (Nat × Instr)).all
    (fun e => decodeTableWord 128 (e.1 * 2 ^ 64) == some e.2) = true := by decide

/-- VA slot, from R49, R56 and R57: OP, CM, VD, VA, VB, QG, TY. -/
theorem test_decode_vector_1 : ([
    (0x4AA5003C00E00368, .vqand ⟨.va, 0xA5, 15, 14, 13, 5, 0⟩),
    (0x4BA5003C00E00368, .vqor ⟨.va, 0xA5, 15, 14, 13, 5, 0⟩),
    (0x4CA5003C00E00028, .vqnot ⟨.va, 0xA5, 15, 14, 0, 5, 0⟩),
    (0x50A5002806403228, .vcmpEq ⟨.va, 0xA5, 10, 100, 200, 5, 0⟩),
    (0x51A5002806403229, .vcmpNe ⟨.va, 0xA5, 10, 100, 200, 5, 1⟩),
    (0x52A500280640322A, .vcmpLt ⟨.va, 0xA5, 10, 100, 200, 5, 2⟩),
    (0x53A500280640322B, .vcmpLe ⟨.va, 0xA5, 10, 100, 200, 5, 3⟩),
    (0x54A500280640322C, .vcmpGt ⟨.va, 0xA5, 10, 100, 200, 5, 4⟩),
    (0x55A500280640322D, .vcmpGe ⟨.va, 0xA5, 10, 100, 200, 5, 5⟩),
    (0x60A5002406400028, .vexp2 ⟨.va, 0xA5, 9, 100, 0, 5, 0⟩),
    (0x61A5002406400028, .vlog2 ⟨.va, 0xA5, 9, 100, 0, 5, 0⟩),
    (0x62A5002406400028, .vrcp ⟨.va, 0xA5, 9, 100, 0, 5, 0⟩),
    (0x63A5002406400028, .vrsq ⟨.va, 0xA5, 9, 100, 0, 5, 0⟩),
    (0x64A5002406400028, .vsqrt ⟨.va, 0xA5, 9, 100, 0, 5, 0⟩),
    (0x70A50024064002ED, .vcvt ⟨.va, 0xA5, 9, 100, 11, 5, 5⟩),
    (0x71A50024064015E8, .vpack ⟨.va, 0xA5, 9, 100, 87, 5, 0⟩),
    (0x72A500240642402F, .vunpk ⟨.va, 0xA5, 9, 100, 2304, 5, 7⟩),
    (0x80A50024003FFFA8, .vld ⟨.va, 0xA5, 9, 3, 16382, 5, 0⟩),
    (0x81A500240037FFE8, .vst ⟨.va, 0xA5, 9, 3, 8191, 5, 0⟩),
    (0x82A5002400303228, .vldx ⟨.va, 0xA5, 9, 3, 200, 5, 0⟩) ] : List (Nat × Instr)).all
    (fun e => decodeTableWord 128 (e.1 * 2 ^ 64) == some e.2) = true := by decide

/-- VA slot, from R49, R56 and R57: OP, CM, VD, VA, VB, QG, TY. -/
theorem test_decode_vector_2 : ([
    (0x83A5002400303228, .vstx ⟨.va, 0xA5, 9, 3, 200, 5, 0⟩),
    (0x84A5003C00380028, .vstmb ⟨.va, 0xA5, 15, 3, 8192, 5, 0⟩),
    (0x85A5003C00300068, .vldmb ⟨.va, 0xA5, 15, 3, 1, 5, 0⟩),
    (0x86A50024064003E8, .vbcast ⟨.va, 0xA5, 9, 100, 15, 5, 0⟩),
    (0x87A50024064001EE, .vextr ⟨.va, 0xA5, 9, 100, 7, 5, 6⟩),
    (0xA0A5002406403228, .vperm ⟨.va, 0xA5, 9, 100, 200, 5, 0⟩),
    (0xA1A50024064001E8, .vxcrs ⟨.va, 0xA5, 9, 100, 7, 5, 0⟩),
    (0xA2A5002406400028, .vradd ⟨.va, 0xA5, 9, 100, 0, 5, 0⟩),
    (0xA3A5002406400029, .vrmax ⟨.va, 0xA5, 9, 100, 0, 5, 1⟩),
    (0xA4A500240640002A, .vrmin ⟨.va, 0xA5, 9, 100, 0, 5, 2⟩),
    (0xB0A50024064007EB, .vwfac ⟨.va, 0xA5, 9, 100, 31, 5, 3⟩),
    (0xB1C3002406400780, .vwmrg ⟨.va, 0xC3, 9, 100, 30, 0, 0⟩),
    (0xB2A5002400000028, .vwstmp ⟨.va, 0xA5, 9, 0, 0, 5, 0⟩),
    (0xB8A5002400F007E8, .vzrd ⟨.va, 0xA5, 9, 15, 31, 5, 0⟩),
    (0xB9A5002400E00068, .vzwr ⟨.va, 0xA5, 9, 14, 1, 5, 0⟩) ] : List (Nat × Instr)).all
    (fun e => decodeTableWord 128 (e.1 * 2 ^ 64) == some e.2) = true := by decide

/-- M slot, from R50 and R58: OP, ZD, AA, AB, TO, TI1, TI2, TI3. -/
theorem test_decode_matrix : ([
    (0x10FC31C3F87, .mma ⟨15, 12, 3, 7, 3, 62, 7⟩),
    (0x20FC31C3F87, .mmai ⟨15, 12, 3, 7, 3, 62, 7⟩),
    (0x30FC31C3F87, .mmas ⟨15, 12, 3, 7, 3, 62, 7⟩),
    (0x400C31C3F87, .mgath ⟨0, 12, 3, 7, 3, 62, 7⟩),
    (0x50F001C3F87, .mzero ⟨15, 0, 0, 7, 3, 62, 7⟩),
    (0x60FC01C3F87, .mzld ⟨15, 12, 0, 7, 3, 62, 7⟩),
    (0x70FC01C3F87, .mzst ⟨15, 12, 0, 7, 3, 62, 7⟩),
    (0x800C31C3F87, .mtrn ⟨0, 12, 3, 7, 3, 62, 7⟩) ] : List (Nat × Instr)).all
    (fun e => decodeTableWord 240 (e.1 * 2 ^ 192) == some e.2) = true := by decide

/-- C0 slot, from R51 and R59: OP, SX, SY, AP, TO, TI1, TI2, TI3. -/
theorem test_decode_copy : ([
    (0x1CA8B1C3F87, .cpget ⟨.c0, 50, 40, 11, 7, 3, 62, 7⟩),
    (0x2CE8B1C3F87, .cpput ⟨.c0, 51, 40, 11, 7, 3, 62, 7⟩),
    (0x3D28B1C3F87, .cpstr ⟨.c0, 52, 40, 11, 7, 3, 62, 7⟩),
    (0x4D68B1C3F87, .cptile ⟨.c0, 53, 40, 11, 7, 3, 62, 7⟩),
    (0x5DA8B1C3F87, .cppair ⟨.c0, 54, 40, 11, 7, 3, 62, 7⟩),
    (0x6028B1C3F87, .cpbay ⟨.c0, 0, 40, 11, 7, 3, 62, 7⟩),
    (0x7CA8B1C3F87, .cpfill ⟨.c0, 50, 40, 11, 7, 3, 62, 7⟩),
    (0x20000B1C3F87, .nmcmd ⟨.c0, 0, 0, 11, 7, 3, 62, 7⟩),
    (0x21CA8B1C3F87, .cpwget ⟨.c0, 50, 40, 11, 7, 3, 62, 7⟩),
    (0x22CE8B1C3F87, .cpwput ⟨.c0, 51, 40, 11, 7, 3, 62, 7⟩),
    (0x23D28B1C3F87, .cpwacc ⟨.c0, 52, 40, 11, 7, 3, 62, 7⟩),
    (0x30368B1C3F87, .hget ⟨.c0, 13, 40, 11, 7, 3, 62, 7⟩),
    (0x313A8B1C3F87, .hput ⟨.c0, 14, 40, 11, 7, 3, 62, 7⟩),
    (0x323E8B1C3F87, .hacc ⟨.c0, 15, 40, 11, 7, 3, 62, 7⟩),
    (0x7810101C3F87, .fence ⟨.c0, 4, 1, 0, 7, 3, 62, 7⟩),
    (0x7940001C3F87, .scfence ⟨.c0, 16, 0, 0, 7, 3, 62, 7⟩) ] : List (Nat × Instr)).all
    (fun e => decodeTableWord 288 (e.1 * 2 ^ 240) == some e.2) = true := by decide

/-- C1 slot, from R51 and R59. -/
theorem test_decode_remote : ([
    (0x4002801C3F87, .wcreate ⟨.c1, 0, 40, 0, 7, 3, 62, 7⟩),
    (0x4102801C3F87, .wfree ⟨.c1, 0, 40, 0, 7, 3, 62, 7⟩),
    (0x42028B1C3F87, .wget ⟨.c1, 0, 40, 11, 7, 3, 62, 7⟩),
    (0x43028B1C3F87, .wput ⟨.c1, 0, 40, 11, 7, 3, 62, 7⟩),
    (0x44028B1C3F87, .wacc ⟨.c1, 0, 40, 11, 7, 3, 62, 7⟩),
    (0x4502801C3F87, .wfence ⟨.c1, 0, 40, 0, 7, 3, 62, 7⟩),
    (0x4602801C3F87, .wpost ⟨.c1, 0, 40, 0, 7, 3, 62, 7⟩),
    (0x4702801C3F87, .wstart ⟨.c1, 0, 40, 0, 7, 3, 62, 7⟩),
    (0x4802801C3F87, .wcmpl ⟨.c1, 0, 40, 0, 7, 3, 62, 7⟩),
    (0x4902801C3F87, .wwait ⟨.c1, 0, 40, 0, 7, 3, 62, 7⟩),
    (0x4A02801C3F87, .wlock ⟨.c1, 0, 40, 0, 7, 3, 62, 7⟩),
    (0x4B02801C3F87, .wunlk ⟨.c1, 0, 40, 0, 7, 3, 62, 7⟩),
    (0x60028B1C3F87, .wfaa ⟨.c1, 0, 40, 11, 7, 3, 62, 7⟩),
    (0x61028B1C3F87, .wcas ⟨.c1, 0, 40, 11, 7, 3, 62, 7⟩),
    (0x62028B1C3F87, .wswap ⟨.c1, 0, 40, 11, 7, 3, 62, 7⟩),
    (0x63CA801C3F87, .cntinc ⟨.c1, 50, 40, 0, 7, 3, 62, 7⟩),
    (0x64C80B1C3F87, .cntrd ⟨.c1, 50, 0, 11, 7, 3, 62, 7⟩),
    (0x6502801C3F87, .ctrig ⟨.c1, 0, 40, 0, 7, 3, 62, 7⟩),
    (0x66C8001C3F87, .ctdis ⟨.c1, 50, 0, 0, 7, 3, 62, 7⟩),
    (0x70C80B1C3F87, .barinit ⟨.c1, 50, 0, 11, 7, 3, 62, 7⟩),
    (0x713CEB1C3F87, .bararr ⟨.c1, 15, 14, 11, 7, 3, 62, 7⟩),
    (0x723E8B1C3F87, .barwait ⟨.c1, 15, 40, 11, 7, 3, 62, 7⟩),
    (0x73028B1C3F87, .bayadd ⟨.c1, 0, 40, 11, 7, 3, 62, 7⟩),
    (0x74028B1C3F87, .baycas ⟨.c1, 0, 40, 11, 7, 3, 62, 7⟩),
    (0x80000B1C3F87, .coll ⟨.c1, 0, 0, 11, 7, 3, 62, 7⟩),
    (0x81000B1C3F87, .collq ⟨.c1, 0, 0, 11, 7, 3, 62, 7⟩) ] : List (Nat × Instr)).all
    (fun e => decodeTableWord 336 (e.1 * 2 ^ 288) == some e.2) = true := by decide

/-- K slot, from R52, with the BRACE that R62 asks for: OP, CM, VR, CH, QG. -/
theorem test_decode_comm : ([
    (0x1FF00301400, .send ⟨0xFF, 12, 5, 0⟩),
    (0x2810193FFC0, .recv ⟨0x81, 100, 255, 15⟩),
    (0x30100001D00, .recvadd ⟨0x1, 0, 7, 4⟩),
    (0x48003FC0640, .recvmax ⟨0x80, 255, 1, 9⟩) ] : List (Nat × Instr)).all
    (fun e => decodeTableWord 384 (e.1 * 2 ^ 336 + 1) == some e.2) = true := by decide
/-! ## A small module: one kernel with a handler bound to core 0, nothing else -/

/-- A bound kernel of two segments, the second its handler, with 42 scratchpad units (R20, R41). -/
def base : State :=
  let s := State.reset.withFetchWord 64 0
  { s with
    core := { s.core with partword := 0x844 }
    kernels := s.kernels.map fun k => { k with img := { k.img with
      part := 0x844, segs := [⟨oneUnitHeader, [0]⟩, ⟨oneUnitHeader, [0]⟩], handler := some 1, rows := [0x40C00183] } } }

/-- That module with its core changed. -/
def on (f : Core → Core) : State := { base with core := f base.core }

/-- `Handled` as a test. -/
theorem handled_of {s : State} {g : Nat} (h : (!s.core.mode && (s.mine.any fun k => k.img.handler == some g)) = true) : Handled s g := by
  cases hk : s.mine <;> simp_all [Handled]

/-- Bytes put into the scratchpad. -/
def withWord (off x : Nat) (c : Core) : Core := c.poolWriteRemote (cellsAt off (bytesOf 8 x))

/-- A yard of one region, home in bay 0, at 0x10000, epoch 1, with a relay window over one object, and its page. -/
def yard (f : Core → Core) : State :=
  { on f with
    regions := [⟨⟨0, 1⟩, 0x10000, 0x10000, 0x18000, 0x18010, 256, 0, 1, [], [], 0⟩]
    contexts := [{ Context.fresh 0 false false true none with leaves := [⟨1, 0xF200000000010000⟩] }]
    hbm := [(0x10000, 4), (0x10006, 1)] }

/-- A copy-engine operation of C0 that has been issued and nothing more. -/
def op (id opc : Nat) : COp where
  id := id
  opc := opc
  f := ⟨.c0, 0, 0, 0, 0, 0, 0, 0⟩
  x := 0
  y := 0
  href := 0
  area := 0
  desc := 0
  desc2 := 0
  step := 0
  fi := 0
  opened := false
  waits := []
  stage := .queued
  accAt := 0
  promise := none
  status := 0
  outward := isOutward opc 0
  released := false
  drained := false
  hnd := none
  staged := []
  addr := 0
  phys := []
  banks := []
  covers := []
  err := none
  logged := false
  parts := 0
  replies := []
  faulted := []
  refused := []
  accs := []

/-! ## States and operands that meet the hypotheses of each statement, clause by clause at the ends of its range -/

theorem test_hyps_FalseGuardHasNoEffect : base.core.rp 15 = false ∧ base.core.rp 0 = true := by decide

theorem test_hyps_IntegerRegisterFormsGiveTheirResults :
    base.core.rp 0 = true ∧ (integerR base.core ⟨1, 2, 3, 0, 0⟩).length = 19 := by decide

theorem test_hyps_IntegerImmediateFormsGiveTheirResults :
    base.core.rp 0 = true ∧ (integerI base.core ⟨1, 2, 0, 0xFFFFFFFF⟩).length = 18 := by decide

theorem test_hyps_ScalarFloatFormsGiveTheirResults :
    base.core.rp 0 = true ∧ (floatR base.core ⟨1, 2, 3, 0, 3⟩).length = 7 := by decide

theorem test_hyps_ComparisonsAndTokenTestsWriteAPredicate :
    base.core.rp 0 = true ∧ 16 ≤ (RForm.mk 16 0 0 0 0).sd.toNat ∧ 5 < (RForm.mk 0 0 0 0 6).fn.toNat ∧
    ((List.range 6).all fun n => (RForm.mk 1 0 0 0 (BitVec.ofNat 4 n)).fn.toNat == n) = true := by decide

theorem test_hyps_RegisterMovesGiveTheirResults :
    let s := on fun c => (c.ws 1 0x1FFFFFFFFFFFFFF).ws 2 0x200000000000000
    Handled s 1 ∧ s.core.rp 0 = true ∧ (s.core.rs 1).toNat < 2 ^ 57 ∧ 2 ^ 57 ≤ (s.core.rs 2).toNat ∧
    (2 : BitVec 4).toNat = 2 ∧ 2 < (3 : BitVec 4).toNat ∧
    ([0x3B9, 0x21, 0x71].all fun w => decide (w < 2 ^ 17 ∧ 2 ≤ w % 2 + w / 2 % 8 + w / 16 % 8 ∧ w % 2 + w / 2 % 8 + w / 16 % 8 ≤ 8 ∧ w / 2 ^ 15 ≠ 3)) =
      true := by
  refine ⟨handled_of (by decide), ?_⟩; decide

theorem test_hyps_RegistersAndScratchpadReadBack :
    base.core.kernel ≠ 0 ∧ 0 < partScratch base.core.partword ∧ base.core.place 0 = some (6 * 2 ^ 18) ∧ base.core.place (42 * 2 ^ 18 - 1) ≠ none ∧
    base.core.place (42 * 2 ^ 18) = none ∧ ({ base.core with partword := 0xBE0 } : Core).place 0 = none := by decide

theorem test_hyps_ScalarPoolAccess : base.core.rp 0 = true := by decide

theorem test_hyps_HstStoresOrTraps :
    Handled base 1 ∧ accessOff base.core ⟨0, 0, 0, 0xFFFFF8⟩ % 8 = 0 ∧ accessOff base.core ⟨0, 0, 0, 0xFFFFFF⟩ % 8 ≠ 0 := by
  refine ⟨handled_of (by decide), ?_⟩; decide

theorem test_hyps_YardReferencesLoadPinAndUnpin :
    let s := yard fun c => (withWord 8 0x10001 (withWord 16 0x18001 (withWord 24 0x10002 c)))
    let h := yard fun c => ((c.wh 1 0x10005).wh 2 0x18005).wh 3 0x10012
    let at_ (f : IForm) : Nat := natOf ((List.range 8).map fun i => s.core.poolByte (accessOff s.core f + i))
    -- HLD: null, current, in the relay window, of an earlier epoch
    at_ ⟨0, 0, 0, 0⟩ = 0 ∧ at_ ⟨0, 0, 0, 8⟩ = 0x10001 ∧ at_ ⟨0, 0, 0, 16⟩ = 0x18001 ∧ at_ ⟨0, 0, 0, 24⟩ = 0x10002 ∧
    (s.regionAt s.myCtx 0x10000).map (fun g => (g.epoch, g.rwlo, g.rwhi)) = some (1, 0x18000, 0x18010) ∧ (s.regionAt s.myCtx 0x18000).isSome = true ∧
    -- HPIN and HUNPIN: null, with a count, without one
    h.core.rh 0 = 0 ∧ (h.regionAt h.myCtx 0x10000).isSome = true ∧ h.phys? h.myCtx 0x10000 = some 0x10000 ∧ (h.memByte 0x10006).toNat = 1 ∧
    h.phys? h.myCtx 0x10010 = some 0x10010 ∧ (h.memByte 0x10016).toNat = 0 ∧ Handled h 1 := by
  refine ⟨?_, ?_, ?_, ?_, ?_, ?_, ?_, ?_, ?_, ?_, ?_, ?_, handled_of (by decide)⟩ <;> decide

theorem test_hyps_ScalarOperandTraps :
    let s := yard fun c => ((withWord 0 0x200000000000000 (withWord 8 0x20001 c)).wh 1 0x200000000000000).wh 2 0x20001
    let t : State := { s with core := { s.core with s := [(1, 0x200000000000000), (2, 0x20000), (3, 1), (4, 0x71)] },
                              kernels := s.kernels.map fun k => { k with stepo := false } }
    let at_ (f : IForm) : Nat := natOf ((List.range 8).map fun i => s.core.poolByte (accessOff s.core f + i))
    Handled t 1 ∧ t.core.rp 0 = true ∧ accessOff s.core ⟨0, 0, 0, 1⟩ % 8 ≠ 0 ∧ 2 ^ 57 ≤ at_ ⟨0, 0, 0, 0⟩ ∧ at_ ⟨0, 0, 0, 8⟩ = 0x20001 ∧
    s.regionAt s.myCtx 0x20000 = none ∧ (t.mine.any fun k => !k.stepo) = true ∧ 2 ^ 57 ≤ (t.core.rs 1).toNat ∧ 2 ^ 57 ≤ (t.core.rh 1).toNat ∧
    (t.core.rh 2).toNat = 0x20001 ∧ 2 ^ 17 ≤ (t.core.rs 2).toNat ∧ (t.core.rs 3).toNat % 2 + (t.core.rs 3).toNat / 2 % 8 + (t.core.rs 3).toNat / 16 % 8 < 2 := by
  refine ⟨handled_of (by decide), ?_⟩; decide

theorem test_hyps_BranchesGoToTheirTargets :
    let s := on fun c => ((c.wlc 0 2).wlc 1 1).ws 1 0x40000000000
    Handled s 1 ∧ s.core.pos = ⟨0, 0⟩ ∧ (s.mine.map fun k => (k.img.segs.length, k.img.handler)) = some (2, some 1) ∧
    -- within the segment; to the handler's, and to none
    (⟨0, 65535⟩ : Position).seg < 2 ∧ (⟨1, 0⟩ : Position).seg = 1 ∧ 2 ≤ (⟨2, 0⟩ : Position).seg ∧
    1 < (s.core.rlc 0).toNat ∧ (s.core.rlc 1).toNat ≤ 1 ∧ s.core.rp 0 ≠ false ∧ s.core.rp 1 ≠ true ∧
    (s.core.rs 0).toNat < 2 ^ 42 ∧ 2 ^ 42 ≤ (s.core.rs 1).toNat ∧ s.core.item.isSome = true ∧ (s.mine.any fun k => (k.header 0).isSome) = true := by
  refine ⟨handled_of (by decide), ?_⟩; decide

theorem test_hyps_HaltTrapReturnAndYield :
    Handled base 1 ∧ base.core.rp 0 = true ∧
    ((on fun c => { c with mode := true, ksave := 2 }).core.mode = true ∧ saveMalformed 2 = false) ∧
    (base.mine.any fun k => k.phase == .bound) = true ∧
    (({ base with kernels := base.kernels.map fun k => { k with phase := .checkpointing } } : State).mine.any fun k => k.phase == .checkpointing) = true := by
  refine ⟨handled_of (by decide), ?_⟩; decide

theorem test_hyps_TrapEntryOrContextFault :
    Handled base 1 ∧
    ((on fun c => { c with mode := true }).mine.any fun k => k.ending == none && k.phase == .bound && k.record == none && k.cores.contains 0) = true ∧
    (({ base with kernels := base.kernels.map fun k => { k with img := { k.img with handler := none } } } : State).mine.any fun k =>
      k.img.handler == none) = true := by
  refine ⟨handled_of (by decide), ?_⟩; decide

theorem test_hyps_WaitsOnTokensAndHandles :
    -- token 1 and handle 1: of a withheld CNTINC; 2: done; 3: failed; 4: promised for later; 5: local only
    let s := on fun c => { c with
      ops := [op 1 0x63, { op 2 0x01 with stage := .moving }]
      tok := [(1, { done := false, owner := 1 }), (3, { status := 3 }), (4, { done := false, promise := 1, owner := 2 }), (5, { done := false, owner := 2 })]
      hnd := [(1, { st := .pending, owner := 1 }), (2, { st := .pending, owner := 2 }), (3, { st := .complete, status := 255 }), (4, { st := .complete }),
        (5, { st := .localDone })] }
    Handled s 1 ∧ s.core.tokenWithheld 1 = true ∧
    ([2, 3, 4, 5].all fun n => !s.core.tokenWithheld n) = true ∧ (s.core.rt 5).done = false ∧ (s.core.rt 5).promise.toNat ≤ s.mcyc.toNat ∧
    s.mcyc.toNat < (s.core.rt 4).promise.toNat ∧ (s.core.rt 2).done = true ∧ (s.core.rt 2).status = 0 ∧ (s.core.rt 3).done = true ∧ (s.core.rt 3).status ≠ 0 ∧
    s.core.handleWithheld 1 true = true ∧ s.core.handleWithheld 1 false = true ∧
    ([0, 2, 3, 4, 5].all fun n => !s.core.handleWithheld n true && !s.core.handleWithheld n false) = true ∧ (s.core.rc 2).st = .pending ∧
    (s.core.rc 0).st = .idle ∧ (s.core.rc 5).st = .localDone ∧ (s.core.rc 4).st = .complete ∧ (s.core.rc 4).status = 0 ∧ (s.core.rc 3).status = 255 := by
  refine ⟨handled_of (by decide), ?_⟩; decide

theorem test_hyps_SystemRegistersReadAndWrite :
    base.core.rp 0 = true ∧ (base.ctx? base.myCtx).isSome = true ∧ (base.mine.any fun k => k.stepo) = true ∧ (7 : Nat) ∉ [0, 1, 11, 12] ∧
    (BitVec.ofNat 32 0x11).toNat % 256 = 17 := by decide

theorem test_hyps_VectorArithmeticAndSigns :
    ([0, 3, 4].all fun n => (BitVec.ofNat 3 n).toNat == n) = true ∧ ([1, 2, 5, 6].all fun n => (BitVec.ofNat 3 n).toNat == n) = true := by decide

theorem test_hyps_VectorLogicShiftsAndCounts : (6 : BitVec 3).toNat ∈ [1, 2, 5, 6] ∧ (1 : BitVec 3).toNat ∈ [1, 2, 5, 6] := by decide

theorem test_hyps_VectorSelectsPredicatesAndCompares :
    ([1, 2, 5, 6].all fun n => (BitVec.ofNat 3 n).toNat == n) = true ∧ ([0, 3, 4].all fun n => (BitVec.ofNat 3 n).toNat == n) = true := by decide

theorem test_hyps_ReciprocalAndRootsAreBracketed : (1 : Nat) ≠ 0 := by decide

/-- Types whose elements are equally many; each pair of kinds. -/
theorem test_hyps_VectorConversions :
    (let bits (t : Nat) : Nat := if t = 7 then 8 else bitsOf t
     bits 0 = bits 2 ∧ bits 3 = bits 5 ∧ bits 6 = bits 7) ∧ (4 = 0 ∨ 4 = 3 ∨ 4 = 4) ∧ (6 = 1 ∨ 6 = 2 ∨ 6 = 5 ∨ 6 = 6) := by decide

theorem test_hyps_VectorDataMovement : ([3, 4, 5, 6].all fun n => (BitVec.ofNat 3 n).toNat == n) = true := by decide

theorem test_hyps_VectorReductions : (2 : BitVec 3).toNat < 3 := by decide

theorem test_hyps_VectorWeathering : (base.ctx? base.myCtx).isSome = true ∧ (3 : BitVec 3).toNat = 3 := by decide

/-- A legal row of bf16 operands with M 64, N 1 and K 1; the same with M 65; an empty descriptor, and one with a reserved bit. -/
theorem test_hyps_MatrixOperationsEnterTheirQueue :
    Handled base 1 ∧ (base.mine.map fun k => k.img.rows.getD 0 0) = some 0x40C00183 ∧
    ([MKind.mma, .mmai, .mmas, .mgath, .mzero, .mzld, .mzst, .mtrn].all fun k => (rowChecks k 0x40C00183 0x3B9 0x3B9).all fun x => !x.2) = true ∧
    (16, true) ∈ rowChecks .mma 0x40C10183 0x3B9 0x3B9 ∧ csrReserved 0 = none ∧ csrReserved (2 ^ 24) = some 24 := by
  refine ⟨handled_of (by decide), ?_⟩; decide

/-- A matrix operation as it issues, and one that has come to its end. -/
def mop : MOp := ⟨1, .mma, 0, 0, 0, 0x40C00183, 0x3B9, 0x3B9, 0x3B9, 0, 7, [], false, false, 0, 0, [], [], {}, [6]⟩

theorem test_hyps_MatrixOperationsStartAndLand :
    (on fun c => { c with mq := [mop] }).core.canStart = some mop ∧
    (let o : MOp := { mop with started := true, zOut := [(4095, 1)] }
     (on fun c => { c with mq := [o] }).core.canLand = some o ∧ o.zOut ≠ [] ∧ o.kind.writesPool = false ∧ o.pOut = [] ∧ base.core.run = .running) ∧
    (let o : MOp := { mop with started := true, kind := .mzst, pOut := [(0, 1)] }
     (on fun c => { c with mq := [o] }).core.canLand = some o ∧ o.zOut = [] ∧ o.kind.writesPool = true) := by decide

/-- Inside and outside M × N at the corner. -/
theorem test_hyps_MatrixResults :
    rowM mop.row ≤ 64 ∧ rowN mop.row ≤ 64 ∧ (63 < rowM mop.row ∧ 0 < rowN mop.row) ∧ ¬ (63 < rowM mop.row ∧ 63 < rowN mop.row) ∧
    -- a scale factor that is NaN, of an operation with scales; the last of two elements that lie apart, and a nibble of neither
    (MKind.mmai.isMma = true ∧ 0 < rowK mop.row ∧ (scaleVal 0xFF00).isNan = true) ∧
    (let at_ (i k h : Nat) : Nat := (4 * i + 2 * k + h) % 2 ^ 25
     ((List.range 2).all fun k => (List.range 2).all fun h => !decide (1 < k) || at_ 0 k h != at_ 0 1 1) = true ∧ 4 < 2 ^ 25 ∧
       ((List.range 2).all fun k => (List.range 2).all fun h => at_ 0 k h != 4) = true) := by decide

/-- A plain copy; a strided one with a reserved bit; a window access whose descriptor is sound, and one with DTY 7. -/
theorem test_hyps_CopyOperationsEnterTheirQueue :
    let f : CForm := ⟨.c0, 1, 9, 3, 7, 7, 7, 7⟩
    Handled base 1 ∧ cTrap 0x01 f base = none ∧ cTrap 0x03 f base = none ∧
    cTrap 0x03 f (on fun c => withWord 16 0x10 c) = some ⟨2, .c0, 0x3F ||| 4 <<< 8 ||| 2 <<< 14⟩ ∧
    cTrap 0x42 f base = none ∧ cTrap 0x42 f (on fun c => withWord 0 0x700000000 c) = some ⟨2, .c0, 0x3F ||| 32 <<< 8⟩ ∧
    readsStep 0x01 0 = false := by
  refine ⟨handled_of (by decide), ?_⟩; decide

/-- A queue with an entry. -/
def entry : QEntry := ⟨BitVec.allOnes 128, [1, 2], false⟩

theorem test_hyps_SendAndReceive :
    (base.mine.any fun k => (k.outgoing base.core.idx 0).any fun p => (k.cores.find? fun r => (base.coreAt r).idx == p.dst) == some 0) = true ∧
    (({ base with kernels := base.kernels.map fun k => { k with cores := [] } } : State).mine.any fun k =>
      (k.outgoing base.core.idx 0).isSome && k.cores.isEmpty) = true ∧ base.core.mode = false ∧ base.core.brace.sent = false ∧
    (on fun c => { c with brace := { c.brace with sent := true } }).core.brace.sent = true ∧
    (on fun c => { c with queues := [(0, [entry])] }).core.entry 0 = some entry ∧ base.core.entry 0 = none ∧ base.core.strict = false ∧
    (Handled (on fun c => { c with strict := true }) 1 ∧ (on fun c => { c with strict := true }).core.entry 0 = none) := by
  refine ⟨by decide, by decide, by decide, by decide, by decide, by decide, by decide, by decide, handled_of (by decide), by decide⟩

theorem test_hyps_MarkersBracesAndDueResults :
    (({ base with kernels := base.kernels.map fun k => { k with trace := 1 } } : State).mine.any fun k =>
      k.trace.toNat % 2 == 1 && k.trace.toNat / 256 % 2 == 0) = true ∧
    base.core.trace.left = none ∧ base.core.trace.records.length < 4096 ∧ base.core.logFull = false := by decide

theorem test_hyps_SequencerEvents :
    Handled base 1 ∧
    -- at the end of the segment
    ((on fun c => { c with pos := ⟨0, 1⟩ }).mine.any fun k => (k.header 0).any fun h => h.next == none && h.len == 1) = true ∧
    -- a freeze that has lasted WDOG cc, of each kind
    (let s := on fun c => { c with run := .frozen (.receive (.recv ⟨1, 0, 0, 0⟩)), wdog := 1, frozenFor := 1 }
     Handled s 1 ∧ s.core.wdog.toNat ≤ s.core.frozenFor) ∧
    -- a half with a bundle to come
    (base.mine.any fun k => (k.header 0).any fun h => decide (0 < h.len) &&
      (match expandUnit k.img.dict (k.units 0) h.len 0 with | .ok (_, _, lit) => !lit | .error _ => false)) = true ∧
    base.spoiled = [] ∧
    -- a half whose next entry must be reloaded
    (let s : State := { on (fun c => { c with cur := { seg := some 0 }, idle := {} }) with spoiled := [(0, (0, 0), 0, none)] }
     (s.mine.any fun k => decide (0 < (k.units 0).length) && ((k.units 0).getD 0 0).toNat == 0 && k.imgKey == (0, 0) && bayOf s.core.ref == 0) = true ∧
       s.core.cur.complete = false ∧ s.core.cur.nextAt ≤ s.core.clk ∧ s.core.idle.seg = none) ∧
    -- a sleep that is over, its token done or not
    (let s := on fun c => { c with run := .sleeping 1 }
     s.core.waited.promise.toNat ≤ s.mcyc.toNat ∧ s.core.waited.done = true ∧ s.core.waited.status = 0 ∧
       (on fun c => { c with run := .sleeping 1, waited := { done := false } }).core.waited.done = false) ∧
    -- a HALT with nothing left
    (let c := (on fun c => { c with run := .halting, tok := [(1, { status := 1 })], hnd := [(1, { st := .complete })] }).core
     c.run = .halting ∧ (∀ x ∈ c.tok, x.2.done = true) ∧ (∀ x ∈ c.hnd, x.2.st = .complete ∨ x.2.st = .idle) ∧ c.mq = []) := by
  refine ⟨handled_of (by decide), by decide, ⟨handled_of (by decide), by decide⟩, ?_⟩; decide

theorem test_hyps_YardLookupsEndFreezes :
    let w : YardWait := ⟨false, 1, 0, 8, 0x10001, ⟨0, 1⟩, 0, 0x10001⟩
    let s (n : Byte) : State := { yard fun c => (withWord 8 0x10001 c) with hbm := [(0x10006, n)] }
    let f (w : YardWait) (n : Byte) : State := { s n with core := { (s n).core with run := .frozen (.yard w), ops := [{ op 3 0x30 with stage := .held }] } }
    (f w 1).core.run = .frozen (.yard w) ∧ w.due ≤ (f w 1).mcyc.toNat ∧ ((f w 1).region? w.region).isSome = true ∧
    -- the slot still holds the reference, and holds another
    natOf ((List.range 8).map fun i => (f w 1).core.poolByte (w.off + i)) = w.ref.toNat ∧
    natOf ((List.range 8).map fun i => (f w 1).core.poolByte (0 + i)) ≠ w.ref.toNat ∧
    -- a pin below 255 and at 255
    ((f w 1).region? w.region).map (fun g => (g.objectOf w.ref, g.relaying 0x10000)) = some (0x10000, false) ∧
    (f w 1).phys? 0 0x10000 = some 0x10000 ∧ ((f w 254).memByte 0x10006).toNat < 255 ∧ ((f w 255).memByte 0x10006).toNat = 255 ∧
    Handled (f { w with pin := true } 255) 1 ∧ ((f w 1).core.op? 3).map (·.stage) = some CStage.held ∧
    (((f w 1).core.wh 1 0x10001).poolWrite (cellsAt 8 (bytesOf 8 0x10001))).logFull = false ∧ (f w 1).core.logFull = false := by
  refine ⟨rfl, by decide, by decide, by decide, by decide, by decide, by decide, by decide, by decide, handled_of (by decide), by decide, by decide, by decide⟩

/-- A get, one of an unmapped page, and a get of a mapped one. -/
def getOp : COp := { op 1 0x01 with x := 0x10000, y := 4 }

theorem test_hyps_CopyEnginesAccept :
    let s := yard fun c => { c with ops := [getOp] }
    let bad := yard fun c => { c with ops := [{ getOp with y := 0x1000001 }] }
    s.canAccept .c0 = some getOp ∧ s.resolveYard { getOp with targets := s.targetsOf 1 0 } = getOp ∧ getOp.opc < 0x40 ∧ getOp.empty = false ∧ s.core.heldBehind getOp = false ∧
    (let o1 : COp := { s.resolveYard { getOp with targets := s.targetsOf 1 0, routes := s.routesOf 1 0 } with stage := .held, accAt := 0, promise := some 221 }
     let c := (s.core.onOp 1 fun _ => o1).promise 1 221
     ({ s with core := { c with eng0 := { c.eng0 with freeAt := 1 } } } : State).startOf o1 = .go 0 [(256, 0x10000)]) ∧
    (bad.canAccept .c0 = some { getOp with y := 0x1000001 } ∧ bad.core.run = .running) ∧
    -- a weathered get of an odd address is refused
    (let o : COp := { op 1 0x21 with x := 0x10001, y := 128 }
     let w := yard fun c => { c with ops := [o] }
     let o1 : COp := { w.resolveYard { o with targets := w.targetsOf 0x21 0, routes := w.routesOf 0x21 0 } with stage := .held, accAt := 0, promise := some 221 }
     let c := (w.core.onOp 1 fun _ => o1).promise 1 221
     w.canAccept .c0 = some o ∧ o.empty = false ∧ w.core.heldBehind o1 = false ∧ c.run = .running ∧
       ({ w with core := { c with eng0 := { c.eng0 with freeAt := 1 } } } : State).startOf o1 = .refuse 2 0) ∧
    -- a TLB of each kind within its bound
    (s.dieTlb.length ≤ 4096 ∧ ∀ e ∈ s.dieTlb, e.1 = s.core.ref / 192) := by decide

theorem test_hyps_CopyEnginesCompleteLocally :
    let at_ (opc : Nat) : COp := { op 1 opc with stage := .moving, promise := some 0, x := 0x10000, y := 4, phys := [(256, 0x10000)] }
    let s (opc : Nat) : State := yard fun c => { c with ops := [at_ opc] }
    ([1, 2, 7].all fun n => (s n).core.op? 1 == some (at_ n) && (at_ n).stage == .moving && (at_ n).promise == some 0 && (s n).core.run == .running &&
      (s n).leases.isEmpty && (at_ n).moved == 0 && !(s n).core.unsentBefore (at_ n)) = true ∧
    (at_ 1).outward = false ∧ (s 1).poison = [] ∧ (at_ 2).outward = true ∧ (at_ 2).released = false ∧ (s 2).core.logs = true ∧
    ((s 7).core.poolWrite [(0, 1)]).logFull = false := by decide

theorem test_hyps_ReleasedEffectsTakePlace :
    let o (opc : Nat) (y : W64) (handed : Bool) : COp :=
      { op 1 opc with stage := .localDone, released := true, x := 0x10000, y := y, addr := 0x10000, phys := [(256, 0x10000)], staged := [1, 2, 3, 4], handed := handed }
    let s (o : COp) : State := yard fun c => { c with ops := [o] }
    ([o 0x02 4 false, o 0x20 0 false, o 0x20 0 true, o 0x23 4 false, o 0x23 4 true, o 0x32 0x400000010 false, o 0x32 0x400000010 true].all fun o =>
      (s o).core.op? 1 == some o && o.released && !o.drained && o.stage == .localDone && !(s o).writesBefore o && !(s o).migrating o &&
        (s o).poison.isEmpty && (s o).leases.isEmpty && (s o).underWay.isEmpty && ((s o).ctx? (s o).myCtx).isSome) = true ∧
    (o 2 4 false).staged.length = (o 2 4 false).y.toNat ∧ (o 2 4 false).y.toNat ≤ 2 ^ 24 ∧ (o 0x32 0x400000010 true).len = 4 ∧
    (let f : COp := { op 1 0x78 with stage := .moving }
     (on fun c => { c with ops := [f] }).core.coversOver f = true ∧ base.core.run = .running) ∧
    -- opcodes of NMCMD at the ends of their range, and a line with a value in it
    (1 ≤ 0x105 % 2 ^ 8 ∧ 0x105 % 2 ^ 8 ≤ 5 ∧ 0x206 % 2 ^ 8 = 6) ∧
    (let l : List Byte := bytesOf 4 0x24000003 ++ bytesOf 124 0x3F80
     l.length = 128 ∧ numberAt l 0 4 / 2 ^ 29 % 4 < 2 ∧ 2 ≤ 0x40000000 / 2 ^ 29 % 4) := by decide


/-! ### Windows, counters, barriers, collectives -/

/-- A pool window of one member at core 0, in an open interval, and an access of the member itself to its last byte. -/
def win : Window where
  key := ⟨0, 0, 3⟩
  kernel := 1
  agent := 0
  node := 0
  live := true
  base := 0
  len := 64
  pool := true
  unit := 0
  wth := false
  str := false
  first := 0
  count := 1
  stride := 1
  lockb := 0
  rank := 0
  mode := .fence
  fi := 255
  opened := true
  wfences := []
  received := [(0, 255, 1)]
  held := []
  stalled := []
  exposed := none
  compl := []
  closing := none
  holders := []
  queue := []
  broken := []
  status := {}
  agFi := 255
  agOpen := true
  sentTo := []
  latch := []
  started := none
  taken := []
  creating := none
  freeing := none
  fenceOps := []
  colls := [1]

def acc : Access :=
  ⟨⟨0, 0, 3⟩, 0, ⟨0, 0, 0, 0, 1⟩, 0x43, 255, true, 63, 1, 0, 0, false, 0, 0, 0, 0, [7], true, false, [], 0, none, none, 0, [], none⟩

def msg : WinMsg := ⟨⟨0, 0, 3⟩, 0, 0, 1, true⟩
def lockMsg : LockMsg := ⟨⟨0, 0, 3⟩, 0, true, 0, 1⟩
def holder : LockEntry := ⟨0, true, 0, 1, 0⟩

/-- A kernel of a state that is not retired, as a test. -/
theorem notRetired_of {s : State} {n : Nat} (h : ((s.kernel? n).all fun k => k.phase != .retired) = true) :
    ∀ kr, s.kernel? n = some kr → kr.phase ≠ .retired := by
  intro kr hk; simpa [hk] using h

/-- `AtHead` as a test. -/
theorem atHead_of {s : State} {w : Window} {a : Access} (h : (decide (a.rest = none ∧ (∀ v ∈ s.windows, s.ready v = false) ∧ a.agent = false ∧ a.coll = none ∧ w.held = [] ∧
    w.stalled = [] ∧ w.wfences = [] ∧ 0 < w.count ∧ s.awayUntil a = none ∧ s.routeHolder a = none) &&
      (s.kernel? w.kernel).all fun k => k.phase != .retired) = true) : AtHead s w a := by
  rw [Bool.and_eq_true, decide_eq_true_eq] at h
  obtain ⟨⟨h1, h2, h3, h4, h5, h6, h7, h8, h9, h10⟩, hk⟩ := h
  exact ⟨h1, h2, h3, h4, h5, h6, h7, h8, h9, h10, notRetired_of hk⟩

/-- `Waitless` as a test. -/
theorem waitless_of {c : Core} (h : c.run = .running) : Waitless c := by intro n; simp [h]

/-- A get of two parts of which one is in; an access to another module, one that a barred home lets through, and one whose route is away
until 5. -/
theorem test_hyps_RepliesAndRetries :
    let o : COp := { op 1 0x42 with stage := .moving, parts := 2, replies := [(0, 255)] }
    let s := on fun c => { c with ops := [o] }
    let away : State := { base with agenda := [⟨5, none, .targetAwayRetry acc⟩] }
    s.redirect 0 1 = s.core.ref ∧ s.core.op? 1 = some o ∧ o.replies.length + 1 = o.parts ∧ o.fired = false ∧ 256 ∉ o.stale ∧ s.core.walkers = [] ∧
    s.core.run = .running ∧ (∀ x ∈ o.replies, x.2 < 256) ∧
    (∀ i < 2, ∀ j < 2, ([(0, 255), (256, 0)].getD i (0, 0)).1 = ([(0, 255), (256, 0)].getD j (0, 0)).1 → i = j) ∧
    partsStatus [(256, 255), (0, 1)] = 1 ∧ partsStatus [(0, 0), (256, 0)] = 0 ∧
    base.barred acc = false ∧ acc.node = base.node.toNat ∧ base.barred { acc with node := 1023 } = false ∧ 1023 ≠ base.node.toNat ∧
    away.awayUntil acc = some 5 ∧ away.mcyc.toNat < 5 ∧ base.agenda = [] ∧ acc.rest = none ∧ acc.ctr = none ∧ base.owes 0 [] = false ∧
    base.barred { acc with ctr := some ⟨1, 0, 0, 1, 0, 0, false, []⟩ } = false := by decide

/-- Each check alone, at the window's last byte and one beyond; the checks do not overlap. -/
theorem test_hyps_PortChecksInOrder :
    portCheck (some win) acc = .accept ∧ portCheck (some win) { acc with off := 64 } = .reject 1 ∧ portCheck none acc = .reject 4 ∧
    portCheck none { acc with tagOk := false } = .reject 8 ∧ portCheck (some win) { acc with tagOk := false } = .reject 8 ∧
    portCheck (some { win with live := false }) acc = .reject 4 ∧ portCheck (some { win with broken := [0] }) acc = .reject 7 ∧
    portCheck (some win) { acc with fi := 254 } = .reject 3 ∧ portCheck (some { win with wfences := [msg] }) { acc with fi := 0 } = .hold ∧
    portCheck (some win) { acc with dty := 6 } = .reject 5 ∧ portCheck (some { win with wth := true, len := 128 }) { acc with dty := 6, off := 0, len := 128 } = .accept ∧
    portCheck (some win) { acc with opc := 0x60, off := 1, len := 4 } = .reject 6 ∧ portCheck (some win) { acc with opc := 0x60, off := 60, len := 4 } = .accept ∧
    { win with mode := .postStart, exposed := some ⟨0, 1, 1⟩ : Window }.epoch acc = .accept ∧ { win with mode := .postStart : Window }.epoch acc = .reject 2 ∧
    { win with mode := .lock, holders := [holder] : Window }.epoch acc = .accept ∧ { win with mode := .lock : Window }.epoch acc = .reject 2 ∧
    win.epoch { acc with opened := false } = .reject 2 := by decide

/-- The module with one window. -/
def wide (w : Window) : State := { base with windows := [w] }

theorem test_hyps_WindowEventsAtTheTarget :
    (wide win).window? ⟨0, 0, 3⟩ = some win ∧ (∀ v ∈ (wide win).windows, v.key = ⟨0, 0, 3⟩ → v = win) ∧ acc.key = win.key ∧
    -- a rejected access; an accepted one of a byte, and one of more than a doubleword
    AtHead (wide win) win acc ∧ AtHead (wide win) win { acc with off := 64 } ∧ AtHead (wide win) win { acc with off := 0, len := 9, data := List.replicate 9 7 } ∧
    (acc.org.node = base.node.toNat ∧ portCheck (some win) { acc with off := 64 } = .reject 1 ∧ win.pool = true ∧ (wide win).isAway win = false ∧
    portCheck (some win) acc = .accept ∧ portCheck (some win) { acc with off := 0, len := 9, data := List.replicate 9 7 } = .accept ∧ acc.data.length = acc.len ∧ [(0, 8), (8, 1)].Nodup ∧
    (∀ v ∈ (wide win).windows, (wide win).ready v = false) ∧ acc.rce = false ∧ acc.bad = 0 ∧
    (wide win).core.ref = win.agent ∧ 1 ≤ 8 - (win.base + 63) % 8 ∧ 8 - (win.base + 0) % 8 < 9) ∧
    -- the fence that closes interval 255
    (win.count = 1 ∧ msg.rank = 0 ∧ win.rank = 0 ∧ msg.fi = (win.fi + 1) % 256 ∧ (wide win).inBacklog win = false) ∧
    (∀ kr, (wide win).kernel? win.kernel = some kr → kr.phase ≠ .retired) ∧ msg.count ≤ win.gotten 0 win.fi ∧
    -- a post; a notice of a member of the group exposed
    msg.fi < 1536 ∧ win.started = none ∧ Sparse.get 0 win.latch 0 < 255 ∧
    ({ win with exposed := some ⟨0, 1, 1⟩ } : Window).exposed = some ⟨0, 1, 1⟩ ∧ 0 ∈ (⟨0, 1, 1⟩ : Sys2Proof.Machine.Group).ranks ∧
    -- a lock: granted, queue full, released with an access of the rank still to apply and without, broken
    (lockMsg.core < 1536 ∧ win.queue = [] ∧ win.holders = [] ∧ win.lockb = 0) ∧ 64 ≤ (List.replicate 64 holder).length ∧
    (let v : Window := { win with stalled := [acc], mode := .lock, holders := [holder] }
     (wide v).rankUnapplied v lockMsg.rank = true) ∧
    (let v : Window := { win with mode := .lock, holders := [holder] }
     (wide v).rankUnapplied v lockMsg.rank = false ∧ v.holders = [holder] ∧ holder.rank = lockMsg.rank) ∧
    lockMsg.rank ∉ win.broken ∧ lockMsg.rank ∈ ({ win with broken := [0] } : Window).broken ∧
    (let v : Window := { win with lockb := 1, holders := [holder], queue := [{ holder with rank := 1 }] }
     let t : State := { wide v with mcyc := 0x10000 }
     t.rankUnapplied v holder.rank = false ∧ holder.since + 1 * 2 ^ 16 ≤ t.mcyc.toNat) := by
  refine ⟨by decide, by decide, by decide, atHead_of (by decide), atHead_of (by decide), atHead_of (by decide), ?_, ?_, notRetired_of (by decide), ?_⟩ <;>
    decide

/-- The kernel of `base` with a queue's free and fill counters bound to its ids 0 and 1. -/
def queuing (q : TaskQueue) : State := { base with
  taskQueues := [q]
  kernels := base.kernels.map fun k => { k with queues := [⟨65535, 0, 1, false⟩] } }

/-- A queue of four with a take of n. -/
def taken (n : Nat) : TaskQueue := ⟨0, 65535, 0, false, 4, 4, 0, [⟨1535, 1, n⟩], [], 0⟩

theorem test_hyps_CountersTriggersTakesAndEntries :
    -- an increment behind a store that is not visible, and one of a counter whose next value meets a trigger's threshold
    let m : CtrMsg := ⟨1, 0, 255, 0xFFFFFFFFFFFFFFFF, 0, 1, false, []⟩
    let t : Trigger := ⟨255, 1, 255, 0x43, 0, 0x20, 1, false⟩
    let armed := on fun c => { c with triggers := [t] }
    ((on fun c => { c with ops := [op 9 0x02] }).owes 0 [9] = true) ∧
    (armed.owes m.core m.after = false ∧ armed.awayUntil (armed.ctrAccess m) = none ∧ armed.queueOf 1 255 = none ∧ (armed.kernel? 1).any (fun k => !armed.kernelAway k && k.cores == [0]) = true ∧
      m.inc ≠ 0 ∧ t.thr.toNat ≤ (armed.counter 1 0 255 + m.inc).toNat ∧ ¬ t.thr.toNat ≤ (armed.counter 1 0 255 + 0).toNat ∧ t.tid < 256) ∧
    -- an increment of a queue counter, within the capacity and beyond it
    ((queuing (taken 5)).owes 0 [] = false ∧ (queuing (taken 5)).awayUntil ((queuing (taken 5)).ctrAccess ⟨1, 0, 1, 1, 0, 1, false, []⟩) = none ∧ (queuing (taken 5)).queueOf 1 1 = some (0, 65535, true) ∧ (queuing (taken 5)).queue? 0 65535 = some (taken 5) ∧
      (0 : Int) < (1 : W64).toInt ∧ ¬ (taken 5).cap < (taken 5).fill.toNat + 1 ∧ (taken 5).cap < (taken 5).free.toNat + 1) ∧
    -- a trigger that is due, or met, at a window that is there or not, of a core that waits on nothing
    (let due := on fun c => { c with triggers := [{ t with due := true }] }
     ((due.coreAt 0).triggers.find? fun x => x.tid == 255) = some { t with due := true } ∧ Waitless (due.coreAt 0) ∧
       (due.focus 0).localRefusal 0x43 0x20 = true ∧ ({ due with windows := [{ win with key := ⟨0, 0, 0x20⟩ }] }.focus 0).localRefusal 0x43 0x20 = false) ∧
    -- a take of all there is, and of one more; of this module's cores and of another's
    ((queuing (taken 4)).queue? 0 65535 = some (taken 4) ∧ (4 : Nat) ≤ (taken 4).free.toNat ∧ (taken 5).free.toNat < 5 ∧ 1535 < 1536 ∧ ¬ 1536 < 1536) ∧
    -- a circuit with three entries, a core frozen on it, and one with four
    (base.coreAt 0).kernel ≠ 0 ∧ (List.replicate 3 entry).length < 4 ∧ base.core.run = .running ∧
    (let i : Instr := .recv ⟨1, 2, 5, 0⟩
     (on fun c => { c with run := .frozen (.receive i) }).core.run = .frozen (.receive i) ∧
       (recvOf i).map (fun x => x.1.ch.toNat) = some 5 ∧ (∀ e ∈ List.replicate 3 { entry with used := true }, e.used = true)) ∧
    (∃ k, base.mine = some k ∧ k.ending = none ∧ k.phase ≠ .retired ∧ k.record = none ∧ base.core.ref ∈ k.cores) ∧ 4 ≤ (List.replicate 4 entry).length := by
  refine ⟨by decide, by decide, by decide, ⟨by decide, waitless_of (by decide), by decide, by decide⟩, by decide, by decide, by decide, by decide, by decide,
    ?_, by decide⟩
  have h : (base.mine.any fun k => k.ending == none && k.phase != .retired && k.record == none && k.cores.contains 0) = true := by decide
  cases hk : base.mine with
  | none => simp [hk] at h
  | some k => exact ⟨k, rfl, by simpa [hk, and_assoc, show base.core.ref = 0 by decide] using h⟩

/-- Counts at the ends of their range; a BARINIT, a BARARR, a BARWAIT whose bound is over. -/
theorem test_hyps_BarriersAndBayAtomics :
    (0 : Nat) = 0 ∧ (2 : Nat) ^ 32 ≤ 2 ^ 32 ∧ ¬ (1 = 0 ∨ (2 : Nat) ^ 32 ≤ 1) ∧
    (let o (n : Nat) : COp := { op 1 n with stage := .moving, parts := 1, addr := 6 * 2 ^ 18 + 1 }
     ([0x70, 0x71, 0x72].all fun n =>
       let s := on fun c => withWord 8 1 { c with ops := [o n] }
       s.core.op? 1 == some (o n) && s.mine.any (fun k => k.cores == [s.core.ref]) && s.core.ops.all (fun p => p.opc != 0x72 || p.id == 1) && s.core.run == .running &&
         decide ((o n).accAt + (o n).y.toNat ≤ s.mcyc.toNat) && (List.range 16).all fun i => s.core.place i == some ((o n).addr - 1 + i)) = true) ∧
    -- a BARWAIT that waits on the object of a last arrival
    (let a : COp := { op 1 0x71 with stage := .moving, addr := 6 * 2 ^ 18 + 1 }
     let p : COp := { op 2 0x72 with stage := .moving, parts := 1, addr := 6 * 2 ^ 18 + 1 }
     let c := (on fun c => { c with ops := [a, p] }).core
     p.id ≠ 1 ∧ c.op? p.id = some p ∧ c.op? 1 = some a ∧ (c.ops.map (·.id)).Nodup ∧ (∀ x ∈ c.ops, x.opc = 0x72 → x = p)) ∧
    -- a BAYADD and a BAYCAS on core 0 itself
    (let o (n : Nat) : COp := { op 1 n with stage := .moving, desc := 8 }
     ([0x73, 0x74].all fun n =>
       let s := on fun c => withWord 8 1 { c with ops := [o n] }
       s.core.op? 1 == some (o n) && s.mine.isSome && s.core.run == .running && s.core.ops.all (fun p => p.opc != 0x72) && (o n).addr == s.core.ref &&
         (let t := s.onCore 0 fun c => c.poolWriteRemote [(8, 1)]
          !(((t.core.poolWriteOf 1 [(0, 1)]).finishLocal 1 0 0).finishDrain 1).logFull)) = true) ∧
    -- a phase other than the one awaited
    (Barrier.ofNat (natOf ((List.range 16).map fun i => (on fun c => withWord 8 1 c).core.poolByte i))).phase ≠ (op 1 0x72).f.sx.toNat % 16 := by decide

/-- A walker of the member's collective 0 with a record. -/
def walk (d : Nat) : Walker := ⟨1, BitVec.ofNat 1024 d, 0, ⟨0, 0, 3⟩, 0, 0, 0, 0, 0, false, [], false, false, false, 0, 0, 0, 1, [], [], []⟩

/-- A module whose core runs that walker. -/
def coll (wk : Walker) (ports : List CollPort) : State :=
  { on fun c => { c with ops := [op 1 0x80], walkers := [wk] } with windows := [win], colls := ports }

/-- A record of a put among `p` members with XLEN 4. -/
def putRec (p : Nat) : Nat := p * 2 ^ 832 + 4 * 2 ^ 864

theorem test_hyps_CollectiveEvents :
    -- a message of a collective that is over, of one that the member has not started, and of its own
    ((coll { walk 0 with state := 3 } []).collOf ⟨0, 0, 3⟩ 0 0 = none ∧ (coll (walk 0) []).collOf ⟨0, 0, 3⟩ 0 1 = some (some 0, 1) ∧
      (coll (walk 0) []).collOf ⟨0, 0, 3⟩ 0 0 = some (none, 0)) ∧
    (∀ w, (coll (walk 0) []).window? ⟨0, 0, 3⟩ = some w → (coll (walk 0) []).isAway w = false) ∧
    -- a walker at work: its peer outside the group of none; itself; its last turn
    (let s := coll (walk 0) []
     Waitless s.core ∧ s.window? win.key = some win ∧ (∀ v ∈ s.windows, v.key = win.key → v = win) ∧ s.isAway win = false ∧ s.walkerOf win.key 0 = some (walk 0) ∧
     win.agent = s.core.ref ∧ s.core.op? 1 = some (op 1 0x80) ∧ (s.core.walkers.find? fun v => v.state == 1) = some (walk 0) ∧
     (∀ v ∈ s.core.walkers, v.redo = [] ∧ v.state ≠ 2) ∧ ((walk 0).pages = [] ∧ s.leases = [] ∧ s.underWay = []) ∧ (walk 0).next < nestSize 0 ∧ nestTransfer 0 0 0 = none ∧ s.agenda = [] ∧
     nestSize 0 ≤ { walk 0 with next := 1 }.next ∧ s.memberBay win 0 = some 0 ∧ 0 < s.core.room .c1) ∧
    (let d := putRec 1
     (walk d).record.toNat = d ∧ (walk d).next < nestSize d ∧ nestTransfer d 0 0 = some (0, 0, 0) ∧ field 787 784 d = 0 ∧ field 787 784 (d + 2 ^ 784) = 1 ∧
     field 787 784 (d + 2 * 2 ^ 784) = 2 ∧ field 793 792 (d + 2 * 2 ^ 784) = 0 ∧ nestTransfer (d + 2 * 2 ^ 784) 0 0 = some (0, 0, 0) ∧
     field 887 864 d = 4 ∧ 0 + 4 ≤ win.len ∧ (coll (walk d) []).ownMissing win [] 0 4 = [] ∧ ((coll (walk d) []).ownRange win [] 0 4).isSome = true ∧
     (coll (walk d) []).barred acc = false) ∧
    -- notices and FINISHED of two members: one missing, none missing
    (let d := putRec 2
     let p := CollPort.fresh ⟨0, 0, 3⟩ none 0
     let q := { p with notices := [(0, 0)], finished := [0] }
     (coll (walk d) [p]).coll win.key none 0 = p ∧ (walk d).noticed = false ∧ (walk d).finishedSent = false ∧ p.finalised = false ∧ field 844 832 d = 2 ∧
     (1 < 2 ∧ 1 ≠ 0 ∧ (∀ n ∈ p.notices, n.1 ≠ 1) ∧ 1 ∉ p.finished) ∧ (coll (walk d) [q]).coll win.key none 0 = q ∧
     (∀ r < 2, ∃ n ∈ Sparse.put q.notices 1 0, n.1 = r ∧ n.2 ≤ Sparse.get 0 q.got r) ∧ (∀ r < 2, r = 1 ∨ r ∈ q.finished) ∧
     [] ≠ collDigest d ∧ (walk d).relBeat + field 1023 992 d ≤ 2 * (coll (walk d) [p]).mcyc.toNat) := by
  refine ⟨by decide, ?_, ⟨waitless_of (by decide), by decide⟩, by decide, by decide⟩
  intro w h
  have e : (coll (walk 0) []).window? ⟨0, 0, 3⟩ = some win := by decide
  cases e.symm.trans h
  decide

/-! ### The command processor, kernels, the yard, the sweeper -/

/-- A module whose queues are open, with the context of `base`'s kernel. -/
def up : State := { base with sys := { base.sys with boot := .open_ }, contexts := [Context.fresh 0 false false true none] }

/-- A command of payload words 1 to 4. -/
def cmd (w1 w2 w3 w4 : W64) : Cmd := ⟨7, 0, 0, w1, w2, w3, w4, 0, 0, 0⟩

/-- `Passes` as a test. -/
theorem passes_of {s : State} {c : Cmd} {n : Nat} (h : (decide (s.sys.boot = .open_) && decide (s.sys.life ≠ .decommissioned) && s.cp.held.isEmpty &&
    decide (s.cp.nextSeq - 1 - s.cp.readIdx < 2 ^ 20) && decide (s.cp.lastAccept ≠ some s.mcyc.toNat) && c.res == 0 && ([c.w1, c.w2, c.w3, c.w4, c.w5, c.w6, c.w7].drop n).all (· == 0)) = true) :
    Passes s c n := by
  simpa [Passes, Taking, Unspent, and_assoc] using h

theorem up_takes : Taking up := (passes_of (c := cmd 0 0 0 0) (n := 0) (by decide)).1

theorem test_hyps_CommandsAreCheckedAsTheyAreTaken :
    Taking up ∧ ¬ Taking State.reset ∧ ¬ Unspent { up with cp := { up.cp with lastAccept := some 0 } } ∧ ({ cmd 0 0 0 0 with res := 255 } : Cmd).res ≠ 0 ∧ (cmd 0 0 0 1).w4 ≠ 0 ∧ up.ctx? 0 ≠ none ∧ up.ctx? 65535 = none ∧
    (∀ n ≤ 4, Passes up (cmd 0 0 0 0) n) :=
  ⟨up_takes, fun h => (by cases h.1), fun h => h rfl, by decide, by decide, by decide, by decide, fun n h => passes_of (by
    obtain rfl | rfl | rfl | rfl | rfl : n = 0 ∨ n = 1 ∨ n = 2 ∨ n = 3 ∨ n = 4 := by omega
    all_goals decide)⟩

theorem test_hyps_LaunchQueueAndTableCommands :
    (up.ctx? 0).isSome = true ∧ Passes up (cmd 0xFFFFFFFFFF 1 1 1) 4 ∧
    -- LAUNCH of a record outside memory
    (match up.launchOf (cmd 0xFFFFFFFFFF 0 0 0) 1 with | .error st => st == 2 | .ok _ => false) = true ∧
    -- QCREATE of the largest queue
    (let n := 2 ^ 24 * 2 ^ 32 + 65535
     n / 2 ^ 20 % 2 ^ 12 = 0 ∧ 0 < n / 2 ^ 32 ∧ n / 2 ^ 32 ≤ 2 ^ 24 ∧ up.queue? 0 (n % 2 ^ 16) = none) ∧
    -- QFREE, and a READ of the same into the last granule of memory
    (let s : State := { up with taskQueues := [⟨0, 65535, 0, false, 4, 4, 0, [], [], 0⟩] }
     (s.queue? 0 65535).isSome = true ∧ (match s.readRecord 0 5 65535 with | .ok b => b.length == 32 | .error _ => false) = true ∧
     0xFFFFFFFFC0 % 64 = 0 ∧ 0xFFFFFFFFC0 + 32 ≤ 2 ^ 40 ∧ s.poison = [] ∧ s.cp.nextSeq - s.cp.readIdx < 2 ^ 20) ∧
    -- KILL
    (up.mine.any fun k => k.phase != .retired && k.ending == none && (up.kernel? k.seq).isSome && k.ctx == 0 && k.queues.isEmpty) = true ∧ up.core.stepsOut = 0 ∧
    -- CLASSTAB of class 7, RATES of row 31, STRIPESET 255
    ((7 : Nat) < 8 ∧ (0xFFFFFFFFFF : W64).toNat < 2 ^ 40) ∧ ((31 : Nat) < 32 ∧ 0xFFFFFFFFA0 + 96 ≤ 2 ^ 40) ∧
    ((255 : Nat) < 256 ∧ stripeCountOk 8 = true ∧ ((List.range 8).all fun i => memRead up (0 + 2 * i) 2 == 0) = true) :=
  ⟨by decide, passes_of (by decide), by decide, by decide, by decide, by decide, by decide, by decide, by decide⟩

/-- `up` without its kernel, with a leaf of bay 0 and a fault; and with a yard. -/
def one : State := { up with kernels := [], contexts := [{ Context.fresh 0 false false true none with
  leaves := [⟨1, 0xF000000000010000⟩], faults := [⟨3, 1, 0, 0, 0, 0, false⟩] }] }

def lot : State := { yard id with
  sys := { base.sys with boot := .open_ }
  hbm := [(0x100, 1), (0x102, 1)]
  regions := [⟨⟨0, 1⟩, 0x20000, 0x10000, 0, 0, 256, 0, 1, [], [], 0⟩] }

theorem test_hyps_PageAndYardCommands :
    Passes one (cmd 0x10000 0 0 0) 1 ∧ Passes lot (cmd 1 1 1 1) 4 ∧ (one.ctx? 0).isSome = true ∧
    -- MAP of the last page
    ((0 : W64).getLsbD 63 = false ∧ leafSz 0 ≠ 3 ∧ 0x1FFFFFFFFFF0000 % pageBytes (leafSz 0) = 0 ∧ 0x1FFFFFFFFFF0000 + 1 * pageBytes (leafSz 0) ≤ 2 ^ 57 ∧
      one.cp.migrations = [] ∧ one.cp.invals = [] ∧ one.underWay = [] ∧ Passes one (cmd 0x10000 0 0 0) 3) ∧
    -- a page of a sealed range, and a frame last mapped under another key
    (let t : State := { one with sys := { one.sys with frameKeys := [(1, 5)] }, contexts := one.contexts.map fun x => { x with sealed := [(0x10000, 0x10000)] } }
     (t.contexts.all fun x => (t.framesOf x 0xF000000000010000).contains 1 && x.hbmKey != 5 && x.sealed.any fun r => decide (0 < r.2 ∧ r.1 < 0x20000 ∧ 0x10000 < r.1 + r.2)) =
       true) ∧
    -- a yard page that is weathered; a page without the yard attribute over a region
    (let y : W64 := 0xF200000000000000
     leafOk y = true ∧ leafYard y = true ∧ leafWth y = false ∧ leafOk 0xF000000000000000 = true ∧ leafYard 0xF000000000000000 = false ∧
       (lot.regions.all fun g => g.key.ctx == 0 && decide (0 < g.len) && decide (g.base < 0x20000 + 1 * pageBytes 0) && decide (0x20000 < g.base + g.len)) = true ∧
       ∃ w : W64, leafOk w = true ∧ leafYard w = true ∧ leafWth w = true) ∧
    -- FAULTREPLY
    ((one.contexts.all fun x => x.faults.find? (fun g => g.id == 3) == some ⟨3, 1, 0, 0, 0, 0, false⟩) = true ∧ one.kernels = [] ∧ one.windows = [] ∧
      one.coresOf 0 = []) ∧
    -- MIGRATE and SEAL
    ((one.contexts.all fun x => x.leaves.find? (fun l => l.page * 2 ^ 16 == 0x10000) == some ⟨1, 0xF000000000010000⟩) = true ∧
      leafOk 0xF000000000010000 = true ∧ leafYard 0xF000000000010000 = false ∧ leafMig 0xF000000000010000 = false ∧ leafStripe 0xF000000000010000 = 0 ∧
      leafHome 0xF000000000010000 = 0 ∧ leafWth 0xF000000000010000 = false) ∧
    -- YARDREG of region 15
    (leafYard 0xF200000000010000 = true ∧ leafStripe 0xF200000000010000 = 0 ∧ leafOk 0xF200000000010000 = true ∧ leafHome 0xF200000000010000 = 0 ∧
      leafWth 0xF200000000010000 = false ∧ (Config.tableArea 0 15 2 = none ∨ ∃ a, Config.tableArea 0 15 2 = some a) ∧ lot.region? ⟨0, 15⟩ = none ∧ lot.regions.all (fun g => decide (0x10000 + 0x10000 ≤ g.base)) = true) ∧
    -- RELAY of one move in region 1, EPOCH
    (memRead lot 0x100 16 = 1 + 1 * 2 ^ 16 ∧ (lot.region? ⟨0, 1⟩).any (fun g => g.jobs.isEmpty) = true) :=
  ⟨passes_of (by decide), passes_of (by decide), by decide, ⟨by decide, by decide, by decide, by decide, by decide, by decide, by decide, passes_of (by decide)⟩, by decide,
    ⟨by decide, by decide, by decide, by decide, by decide, by decide, ⟨0xF300000000000000, by decide⟩⟩, by decide, by decide,
    ⟨by decide, by decide, by decide, by decide, by decide, by cases h : Config.tableArea 0 15 2 <;> simp, by decide, by decide⟩, by decide⟩

theorem test_hyps_QueueJournalAndContextEvents :
    let j : PageJob := ⟨1, 0, 7, true, 1, 0xF000000000020000, 0x10000, 0x10000, []⟩
    let s : State := { one with cp := { one.cp with migrations := [j], invals := [] } }
    one.sys.boot = .open_ ∧ one.cp.rings.find? (fun r => r.1 == 15) = none ∧
    (({ one with cp := { one.cp with rings := [(15, ⟨0, 4096, 0, 0⟩)] } } : State).cp.rings.find? (fun r => r.1 == 15) = some (15, ⟨0, 4096, 0, 0⟩)) ∧
    (one.cp.readIdx ≤ one.cp.nextSeq - 1 ∧ one.cp.nextSeq - 1 < one.cp.nextSeq ∧ one.cp.held.length ≤ 2 ^ 20) ∧
    (one.ctx? 65535 = none ∧ (0x3FF : W64).toNat < 2 ^ 10 ∧ one.sys.keySlots < 512 ∧ one.sys.life ≠ .decommissioned) ∧
    ((one.ctx? 0).isSome = true ∧ one.kernels = []) ∧
    -- a page of a context with MENC, its first and last byte
    (let m : State := { one with sys := { one.sys with frameKeys := [(1, 3)] }, contexts := one.contexts.map fun x => { x with menc := true, key := some ⟨2, 0, 0⟩ } }
     (m.contexts.all fun x => x.menc && x.key == some ⟨2, 0, 0⟩ && m.sys.frameKeys.contains (0x10000 / 2 ^ 16, 2 + 1) && x.leaves == [⟨1, 0xF000000000010000⟩]) = true ∧ m.phys? 0 0x10000 = some 0x10000 ∧ 0xFFFF < pageBytes 0 ∧
       m.phys? 0 0x1FFFF = some 0x1FFFF) ∧
    (j.waits = [] ∧ s.cp.migrations = [j] ∧ (s.contexts.all fun x => (x.leaf? j.va).isSome) = true ∧ s.cp.maps = [] ∧ s.coresOf 0 = [] ∧ s.windows = [] ∧
      s.poison = [] ∧ s.leases = []) := by decide

/-- `up` with its kernel changed, and its core. -/
def life (f : Kernel → Kernel) (g : Core → Core) : State := { up with kernels := up.kernels.map f, core := g up.core }

/-- The kernel waits with nothing before it; its core is loaded; drained; at the end of its bound; saved; aged; retiring. -/
theorem test_hyps_KernelLifeEvents :
    let any (s : State) (p : Kernel → Bool) : Bool := s.kernels.length == 1 && s.kernels.all fun k => k.ending == none && p k
    any (life (fun k => { k with phase := .waiting, cores := [] }) fun _ => .blank 0) (fun k =>
      k.phase == .waiting && (State.depState (life (fun k => { k with phase := .waiting, cores := [] }) fun _ => .blank 0) k.depA == some true) &&
      (State.placeFor (life (fun k => { k with phase := .waiting, cores := [] }) fun _ => .blank 0) k).any fun l => l.length == 1) = true ∧
    any (life (fun k => { k with started := false }) fun c => { c with run := .loaded }) (fun k => !k.started && k.placed && k.cores == [0]) = true ∧
    any (life (fun k => { k with phase := .draining }) id) (fun k => k.phase == .draining && decide (k.horizon ≤ 0)) = true ∧
    (∀ e ∈ up.agenda, e.ages 0 = false) ∧
    any (life (fun k => { k with phase := .checkpointing }) id) (fun k => k.phase == .checkpointing && decide (k.horizon ≤ 0) &&
      !(State.entryInFlight (life (fun k => { k with phase := .checkpointing }) id) k)) = true ∧
    (life id id).core.run = .running ∧ (life id fun c => { c with run := .stopped }).core.owes = false ∧ (life id id).core.mode = false ∧ (life id fun c => { c with mode := true }).core.mode = true ∧
    (life id id).core.left = [] ∧ (life id id).core.reissue = false ∧ up.regions = [] ∧
    (let gone := life (fun k => { k with phase := .preempted, cores := [], saved := [⟨2 ^ 36, up.saveHeader k 0, up.core, []⟩] }) fun _ => .blank 0
     any gone (fun k => k.saved.length == 1 &&
       k.saved.all (fun r => r.replies.isEmpty && r.core.triggers.isEmpty && r.core.walkers.all fun w => w.state == 3) &&
       (up.ctx? k.ctx).any (fun x => x.backlog.isEmpty) && (gone.placeFor k).any fun l => l.length == 1) = true ∧
     ∀ v ∈ gone.windows, v.canClose = false ∧ v.closing = none) ∧
    any (life (fun k => { k with phase := .waiting, depA := 99, ageAt := 0 }) id) (fun k => k.ageAt == 0 && k.depB == 0 && (up.depState k.depA).isNone) = true ∧
    any (life id fun c => { c with run := .halted }) (fun k => k.placed && k.cores == [0] && k.saved.isEmpty && k.record.isNone && !up.core.storesLeft &&
      up.windows.isEmpty && (up.toReplay k).isEmpty && k.ords.all fun g => g / 8 == up.node.toNat) = true ∧ up.core.ops = [] := by
  decide

/-- Batches of one move at each step, pinned and not; an advance with nothing to retire. -/
theorem test_hyps_RelayEngineEvents :
    let b : Batch := ⟨1, 7, [(0x10000, 0x10040)], none, [], [], []⟩
    let g (b : Batch) : Region := ⟨⟨0, 1⟩, 0x10000, 0x10000, 0, 0, 256, 0, 1, [], [.batch b], 0⟩
    let s (b : Batch) (n : Byte) : State := { yard (fun c => c) with regions := [g b], hbm := [(0x10000, 1)] ++ (if n = 0 then [] else [(0x10006, n)]) ++ [(0x10007, 1)], kernels := [] }
    let bad : Batch := { b with moves := [(0x10001, 0x10040)] }
    let m : Move := ⟨0x10000, 0x10040, 16, false, []⟩
    (s b 0).batchRefusal (g b) b = none ∧ (s bad 0).batchRefusal (g bad) bad ≠ none ∧ (s b 0).phys? 0 0x10000 = some 0x10000 ∧ (s b 0).coresOf 0 = [] ∧
    (s b 0).poison = [] ∧ (s b 0).leases = [] ∧ b.demand = [] ∧ (s b 255).memByte 0x10006 ≠ 0 ∧ (s b 0).memByte 0x10006 = 0 ∧
    -- an acknowledgement of a core that has gone, and one still awaited
    (5 ∉ (s b 0).coresOf 0) ∧ (0 ∈ ({ s b 0 with kernels := base.kernels } : State).coresOf 0) ∧ (op 1 2).stage ≠ .localDone ∧
    -- a block yet to copy, and none
    (0 < (m.size + 511) / 512 ∧ 0 ∉ m.copied) ∧ (∀ i < (m.size + 511) / 512, i ∈ [0]) ∧
    ((List.range 512).all fun j => ((s b 0).phys? 0 (0x10000 + j)).isSome && ((s b 0).phys? 0 (0x10040 + j)).isSome) = true ∧
    -- an advance: an entry that stays and one that is released, its object of one granule; a kernel on its core, and one that is away
    (let e (n : Nat) : Forward := ⟨0x10000, 0x10040, n⟩
     (∀ x ∈ [e 1, e 2, e 3], x.bep ≠ (2 + 2) % 4) ∧ [e 0, e 1].filter (fun x => x.bep == (2 + 2) % 4) = [e 0] ∧
       16 * natOf ((List.range 3).map fun i => (s b 0).memByte (0x10000 + i)) = 16) ∧
    (base.kernels.all fun k => k.ctx == 0 && k.phase == .bound && k.cores == [base.core.ref]) = true ∧ base.kernels.length = 1 := by decide

/-- A weathered window of two lines of bay 0: a pass to begin, one under way, a line that is poisoned and one that is old. -/
theorem test_hyps_SweeperEvents :
    let x : Context := { Context.fresh 0 false false true none with leaves := [⟨1, 0xF000000000010000⟩], step := 0x600000 }
    let y : Context := { x with sweeps := [⟨0, [0x200, 0x201], true, false⟩] }
    let s (x : Context) : State := { base with contexts := [x], windows := [{ win with pool := false, wth := true, base := 0x10000, len := 256 }] }
    (s x).ctx? 0 = some x ∧ x.sweep? 0 = none ∧ (s x).weathered x 0 = [0x200, 0x201] ∧ (s y).ctx? 0 = some y ∧
    y.sweep? 0 = some ⟨0, [0x200, 0x201], true, false⟩ ∧ 0x200 ∈ (s y).weathered y 0 ∧ 2 * 0x200 ∈ [0x400] ∧ (s y).poison = [] ∧ (s y).leases = [] ∧
    (s y).underWay = [] ∧ (Sparse.get {} y.weathering 0).malformed < 2 ^ 32 ∧ 0x202 ∉ (s y).weathered y 0 ∧
    -- a line that is old, one that is just not, a zero-line; the lines before the last and the last
    (x.sweepLine 0x600000 (List.replicate 128 0)).1.isSome = true ∧ (x.sweepLine 0x400000 (List.replicate 128 0)).1.isNone = true ∧
    ageTaken 0x400000 0 ≤ 2 ^ 22 ∧ ¬ ageTaken 0x400001 0 ≤ 2 ^ 22 ∧ ¬ ageTaken 0x600000 0x80000000 ≤ 2 ^ 22 ∧ 2 ≤ 0x40000000 / 2 ^ 29 % 4 ∧
    factorOf x 0x600000 0 ≠ 0 ∧ factorOf { x with rates := [(21, 0)] } 0x600000 0 = 0 ∧ [0x201] ≠ [] := by decide

theorem test_hyps_BootAndLifeCycle :
    let s : State := { State.reset with sys := { State.reset.sys with boot := .started } }
    s.sys.boot = .started ∧ s.sys.fails = none ∧ s.sys.keys.test = true ∧ s.fencedUnit (.core 0 191) = false ∧ (∀ c ∈ s.core :: s.peers, c.streamErr = none) ∧ [UnitId.channel 0 63, .bay 7].Nodup ∧
    (∃ c ∈ ({ s with core := { s.core with streamErr := some 1 } } : State).core :: s.peers, c.streamErr ≠ none) ∧ s.sys.life = .manufacture ∧
    -- a streamed bundle that is read, and one that is not
    (match decodeBundle ⟨32, 16, [], []⟩ (BitVec.ofNat 384 ((0x3E * 2 ^ 48 + 4 * 2 ^ 42 + 7) * 2 ^ 8)) with
      | .ok x => x.s == .movi ⟨4, 0, 0, 7⟩ && !x.brace && !x.tmark
      | .error _ => false) = true ∧
    (match decodeBundle ⟨32, 16, [], []⟩ 4 with | .ok _ => false | .error _ => true) = true ∧
    -- it has come to the cores, and they are idle
    (let t : State := { s with streams := [(0, 0, 1, 4)] }
     (t.streams.find? fun e => decide (e.1 ≤ t.mcyc.toNat)) = some (0, 0, 1, 4) ∧ (∀ d ∈ t.agenda, t.mcyc.toNat < d.at_) ∧ (t.coreAt 191).kernel = 0 ∧
       (t.coreAt 191).pend = [] ∧ (t.coreAt 191).left = [] ∧ (t.coreAt 191).z = [] ∧ (t.coreAt 191).pool = [] ∧ (t.coreAt 191).stores = []) := by
  refine ⟨by decide, by decide, by decide, by decide, by decide, by decide, ⟨_, List.mem_cons_self, by decide⟩, by decide, by decide, by decide, by decide⟩

theorem test_hyps_SecurityAndErrors :
    Taking up ∧ (up.sys.keys.test = true ∧ up.sys.keys.identity = none ∧
      (up.sys.keysIn .provisioned).keys.identity = some 0 ∧ (up.sys.keysIn .provisioned).keys.owner ≠ none) ∧ up.fencedUnit (.link 17) = false ∧ up.kernels.length = 1 ∧
    (up.kernels.all fun k => k.placed && k.ending == none && !(up.uses k (.core 7 191)) && up.uses k (.core 0 0)) = true ∧
    ({ up with sys := { up.sys with fenced := [.link 17] } } : State).fencedUnit (.link 17) = true ∧
    (let t : State := { up with sys := { up.sys with errors := [(.port 0 3, 4094)], recent := List.replicate 4095 (.port 0 3, 0) } }
     t.sys.errors.find? (fun e => e.1 == .port 0 3) = some (.port 0 3, 4094) ∧
       4095 ≤ (t.sys.recent.filter fun e => e.1 == .port 0 3 && decide ((0 : Nat) < e.2 + 2 ^ 30)).length) ∧
    0 ∉ up.poison ∧ up.sys.retraining = [] ∧ up.sys.fenced = [] ∧
    (let t : State := { up with mcyc := 7000000, sys := { up.sys with retraining := [(17, 0)] } }
     (17, 0) ∈ t.sys.retraining ∧ 0 + 7000000 ≤ t.mcyc.toNat) ∧ up.cp.nextSeq - up.cp.readIdx + 8 < 2 ^ 20 :=
  ⟨up_takes, by decide⟩

/-! ### Encodings and the machine -/

theorem test_hyps_DecodeOfEncode :
    let i : Instr := .cpput ⟨.c1, 63, 63, 15, 63, 63, 63, 63⟩
    i.wf = true ∧ outsidePartition 32 16 i = none ∧ (encode i).isSome = true := by decide

theorem test_hyps_ModifiersAndMissingBracesAreIllegal :
    (BitVec.ofNat 384 (0x02 * 2 ^ 376)).toNat / 2 ^ 376 ≠ 0 ∧ (BitVec.ofNat 384 (0x02 * 2 ^ 376)).toNat % 2 = 0 ∧
    (match decodeBundle ⟨32, 16, [], []⟩ 0 with | .ok _ => true | .error _ => false) = true ∧ 16 ≤ (RForm.mk 16 0 0 0 5).sd.toNat ∧
    4 < (RForm.mk 0 0 0 0 5).fn.toNat := by decide

/-- A bundle that nothing holds, one whose S slot traps, an event that is due, an input. -/
theorem test_hyps_StepRunsTheDecodedBundle :
    (∀ d ∈ base.agenda, base.mcyc.toNat < d.at_) ∧ (∀ e ∈ base.streams, base.mcyc.toNat < e.1) ∧ base.inputs = [] ∧ base.core.run = .running ∧ base.core.kernel ≠ 0 ∧ base.core.notBefore ≤ base.core.clk ∧
    base.core.turned = false ∧ base.core.issued = false ∧ base.core.pend = [] ∧ base.core.left = [] ∧ base.core.stopReq = false ∧ base.underWay = [] ∧ base.core.mq = [] ∧ base.core.ops = [] ∧ base.core.trace.run = (0, 0) ∧
    base.core.trace.miss = 0 ∧ base.core.stepsOut = 0 ∧ base.core.braced = true ∧ base.core.reissue = false ∧
    (base.core.item.any fun x => x.bad.isNone && !x.bundle.tmark && (base.core.holdOf x.bundle).isNone && (base.bundleTrap x.bundle).isNone) = true ∧
    (match exec (.trap ⟨0, 0, 0, 7⟩) base with | .next t => base.trapped t | _ => false) = true ∧
    (let s : State := { base with agenda := [⟨0, none, .coreHalted⟩] }
     s.agenda = [⟨0, none, .coreHalted⟩] ∧ (0 : Nat) ≤ s.mcyc.toNat) ∧
    -- the bound of a checkpoint, once the cores have had their turns
    (on fun c => { c with turned := true }).core.turned = true ∧ base.peers = [] := by decide

theorem test_hyps_EveryStepKeepsMemoryCanonical :
    Safety.Canonical base ∧ (∃ t, exec (.nop .s) base = .next t) ∧ ∃ t, step base = .next t := by
  refine ⟨?_, ⟨_, rfl⟩, ?_⟩
  · unfold Safety.Canonical; decide
  · cases h : step base with
    | next t => exact ⟨t, rfl⟩
    | fault f => exact absurd (show (match step base with | .fault _ => true | _ => false) = false by decide) (by simp [h])
    | refused r => exact absurd (show (match step base with | .refused _ => true | _ => false) = false by decide) (by simp [h])

theorem test_hyps_SlotsLeaveMemoryAlone : hasWord (.nop .s) = true ∧ ∃ t, exec (.nop .s) base = .next t := ⟨by decide, _, rfl⟩

/-- A core in a gated bank of no kernel, one that a TRET has sent back, and steps of the boot that fail. -/
theorem test_hyps_edges :
    (let c : Core := { Core.blank 0 with partword := 0x840000 }
     (List.range 48).any (fun i => c.gated (i * 2 ^ 18)) = true ∧ base.core.gated 0 = false) ∧
    (let c := (on fun c => { c with reissue := true }).core
     c.left = [] ∧ c.reissue = true ∧ c.mode = false) ∧
    (∀ n ∈ [1, 2, 3, 4, 5, 6, 7], (⟨n, .hostLoader⟩ : BootFailure).step = n) := by decide

/-! ## Results that the manual works out -/

/-- The next state, if there is one. -/
def after (i : Instr) (s : State) : Option State := match exec i s with | .next t => some t | _ => none

/-- What an instruction queues: its latency, registers and flags. -/
def queued (i : Instr) (s : State) : Option Pending := (after i s).bind fun t => t.core.pend.getLast?

/-- R226: the table of encodings. -/
theorem test_encodings_of_R226 :
    let a := Shape.ofWord 0x3B9
    let c := Shape.ofWord 0x95
    let d := Shape.ofWord 0x87AB
    let x (n : Nat) (m : Nat) (e : Int) : Val := .fin (n == 1) m e
    let nxuf : Flags := { nx := true, uf := true }
    let near : Val := .fin false 5404319552844595 (-54)
    c.encode false near = (1, nxuf) ∧ c.encode true near = (0, nxuf) ∧ c.encode false (x 0 5 0) = (6, { nx := true }) ∧
    c.encode false (x 0 7 0) = (7, { nx := true, sat := true }) ∧ c.encode false (x 1 1 (-2)) = (8, nxuf) ∧
    a.encode false (x 0 500 0) = (0x7F, { nx := true, sat := true }) ∧ d.encode false (x 0 100 0) = (0x56, { nx := true }) ∧
    d.encode false (x 0 70000 0) = (0x7C, { of := true, nx := true }) ∧ d.encode true (x 0 70000 0) = (0x7B, { of := true, nx := true }) ∧
    ({ a with sgn := false } : Shape).encode false (x 1 3 0) = (0, { sat := true, nx := true }) ∧ a.encode false (.nan false) = (0, { nv := true }) ∧
    d.encode false (.nan false) = (0x7E, {}) := by decide

/-- R228: shape A's greatest finite value and D's infinity and NaN; R232: ties of bf16. -/
theorem test_shapes_of_R228 :
    ((Shape.ofWord 0x3B9).decode 0x7F).eqv (.ofInt 480) = true ∧ (Shape.ofWord 0x87AB).decode 0xFC = .inf true ∧
    ((Shape.ofWord 0x87AB).decode 0x7D).isNan = true ∧ ((Shape.ofWord 0x95).decode 0xD).eqv (.ofInt (-3)) = true ∧
    shBf16.encode false (shF32.decodeIeee 0x3F808000) = (0x3F80, { nx := true }) ∧ shBf16.encode true (shF32.decodeIeee 0x3F808001) = (0x3F80, { nx := true }) ∧
    shBf16.encode false (shF32.decodeIeee 0x3F808001) = (0x3F81, { nx := true }) := by decide

/-- R22: a partition word of three units; bytes of the scratchpad, and of the padding. -/
theorem test_padding_of_R22 :
    partScratch 0xB20 = 3 ∧ placeIn true 0xB20 0x100040 = placeIn true 0xB20 0x40 ∧ placeIn true 0xB20 0x40 = some (45 * 262144 + 0x40) ∧
    placeIn true 0xB20 0xC0000 = none ∧ placeIn true 0xB20 0xFFFFF = none ∧ placeIn true 0xB20 0x100000 = some (45 * 262144) ∧
    (partScratch 0x1210, partBase 0x1210) = (22, 26) := by decide

/-- R304, R306: ages, and the factor of age 5 at λ = 0.5. -/
theorem test_ages_and_factor :
    ageOf 0x1000002 0xFFFFFE = (4, false) ∧ ageOf 0x64 0x6C = (0, true) ∧
    (({ Context.fresh 0 false false true none with rates := [(96, 0x3F000000), (97, 0x3E800000), (98, 0x3D800000)] } : Context).factor 5 4).1 = 0x3D000000 := by
  decide

/-- The module of R122's example: STEP 6, rate 4 of λ = 0.5, two lines in v1 and v2. -/
def weatherly : State :=
  { on fun c => { c with v := [(128, 0x04000003), (129, 0x41000000), (256, 0x04000005), (257, 0x40000000)] } with
    contexts := [{ Context.fresh 0 false false true none with step := 6, rates := [(96, 0x3F000000), (97, 0x3E800000), (98, 0x3D800000)] }] }

/-- R122: 8.0 of stamp 3 and 2.0 of stamp 5 merge to 2.0 under the header 0x04000006, and no flag is raised. -/
theorem test_vwmrg_of_R122 :
    ((queued (.vwmrg ⟨.va, 3, 1, 2, 4, 0, 0⟩) weatherly).any fun p => p.flags == {} && p.dst.any fun d =>
      match d with | .v 1 ls => ls.contains (0, 0x04000006) && ls.contains (1, 0x40000000) | _ => false) = true := by decide

/-- R191: a BARARR of 3 overruns, and one of 2 completes the phase. -/
theorem test_barrier_of_R191 :
    let b := Barrier.ofNat (0x5E00000060 + 2 * 2 ^ 64)
    (b.arrive 3).2 = false ∧ (b.arrive 3).1.toNat / 2 ^ 64 = 0x12 ∧ ((b.arrive 3).1.arrive 2).2 = true ∧
    ((b.arrive 3).1.arrive 2).1.toNat = 0x60 + 0x13 * 2 ^ 64 := by decide

/-- R137: four group sums of 2^24, 1, 1 and −2^24 give +0.0 and NX. -/
theorem test_mma_of_R137 :
    let a (k : Nat) : Val := if k = 0 then .ofInt 4096 else if k = 48 then .ofInt (-4096) else if k % 16 = 0 then .ofInt 1 else .fin false 0 0
    let b (k : Nat) : Val := if k = 0 ∨ k = 48 then .ofInt 4096 else if k % 16 = 0 then .ofInt 1 else .fin false 0 0
    mmaElem 0 64 a b (.ofInt 1) (.ofInt 1) = (0, { nx := true }) := by decide

/-- R287: 1.0, 2^−24 and −1.0 reduce to 2^−24; 3.0 saturates and, with −1.0, gives 1.0. -/
theorem test_reduction_of_R287 :
    let f (x : Nat) := (toFix 0 1 x).1
    (collResult 0 0 1 (collCombine 0 0 (collCombine 0 0 (f 0x3F800000) (f 0x33800000)) (f 0xBF800000))).1 = 0x33800000 ∧
    (toFix 0 1 0x40400000).2 = true ∧ (collResult 0 0 1 (collCombine 0 0 (f 0x40400000) (f 0xBF800000))).1 = 0x3F800000 := by decide

/-- R253: block 27 goes to rank 0 of four and to rank 2 of five. -/
theorem test_stripes_of_R253 : stripePeer 4 27 = 0 ∧ stripePeer 5 27 = 2 := by decide

/-- R70: an unassigned opcode in VB comes before a misplaced COLL in C0, and before its own empty course mask. -/
theorem test_first_reason_of_R70 :
    (match decodeBundle ⟨32, 16, [], []⟩ (BitVec.ofNat 384 (0x10 * 2 ^ 184 + 0x80 * 2 ^ 280)) with
      | .error r => r == ⟨1, 56, .vb⟩ | .ok _ => false) = true := by decide

/-! ## Results worked out by hand from the rules -/

/-- The first instruction after reset: MOVI s4 lands one cc later (R55, R74, R77). -/
theorem test_step_movi :
    (match step (State.reset.withFetchWord 64 (0x3E10000103F000 * 2 ^ 8)) with
      | .next t => t.core.pend == [⟨t.core.clk + 1, .s, [.s 4 0x103F000], {}⟩] | _ => false) = true := by decide

/-- Registers for the scalar tests. -/
def regs : State := on fun c => (((c.ws 1 0xFFFFFFFFFFFFFFFF).ws 2 1).ws 3 0x8000000000000000).ws 5 0x3F800000

def gives (i : Instr) (d : Dst) (f : Flags) : Bool := (queued i regs).any fun p => p.dst == [d] && p.flags == f

/-- R74: wraps, signs, and divisors of zero. -/
theorem test_integer_arithmetic :
    gives (.add ⟨4, 1, 2, 0, 0⟩) (.s 4 0) {} ∧ gives (.sub ⟨4, 2, 1, 0, 0⟩) (.s 4 2) {} ∧ gives (.mulh ⟨4, 1, 1, 0, 1⟩) (.s 4 0) {} ∧
    gives (.mulh ⟨4, 1, 1, 0, 0⟩) (.s 4 0xFFFFFFFFFFFFFFFE) {} ∧ gives (.div ⟨4, 2, 0, 0, 0⟩) (.s 4 0xFFFFFFFFFFFFFFFF) { dz := true } ∧
    gives (.rem ⟨4, 2, 0, 0, 0⟩) (.s 4 1) { dz := true } ∧ gives (.sraI ⟨4, 3, 0, 63⟩) (.s 4 0xFFFFFFFFFFFFFFFF) {} ∧
    gives (.shr ⟨4, 3, 1, 0, 0⟩) (.s 4 1) {} ∧ gives (.rotI ⟨4, 2, 0, 1⟩) (.s 4 0x8000000000000000) {} ∧ gives (.clz ⟨4, 0, 0, 0, 0⟩) (.s 4 64) {} ∧
    gives (.subI ⟨4, 0, 0, 0xFFFFFFFF⟩) (.s 4 1) {} ∧ gives (.andI ⟨4, 1, 0, 0xFFFFFFFF⟩) (.s 4 0xFFFFFFFF) {} := by decide

/-- R75, R77, R78. -/
theorem test_compare_move_float :
    gives (.cmp ⟨7, 1, 2, 0, 2⟩) (.p 7 true) {} ∧ gives (.cmp ⟨7, 1, 2, 0, 4⟩) (.p 7 false) {} ∧ gives (.movi ⟨4, 0, 0, 0x80000000⟩) (.s 4 0xFFFFFFFF80000000) {} ∧
    gives (.fadd ⟨4, 5, 5, 0, 0⟩) (.s 4 0x40000000) {} ∧ gives (.cvtfi ⟨4, 5, 0, 0, 0⟩) (.s 4 1) {} := by decide

/-- R87, R88: CALL saves the position that follows; LEND loops while its counter is above 1. -/
theorem test_control :
    ((after (.call ⟨0, true, 9⟩) base).any fun t => t.core.npos.isNone) = true ∧
    ((after (.call ⟨0, false, 0⟩) base).any fun t => t.core.npos == some ⟨0, 0⟩) = true ∧
    ((after (.lend ⟨1, false, 0⟩) (on fun c => c.wlc 1 2)).any fun t => t.core.npos == some ⟨0, 0⟩) = true ∧
    ((after (.lend ⟨1, false, 0⟩) (on fun c => c.wlc 1 1)).any fun t => t.core.npos.isNone) = true := by decide

/-- R89, R333: TRAP enters the handler with its code. -/
theorem test_trap :
    ((after (.trap ⟨0, 0, 0, 0xABCD⟩) base).any fun t => t.core.mode && t.core.trapInfo == 0xABCD && t.core.pos == ⟨1, 0⟩) = true := by decide

/-- R98, R104: an f32 sum in the enabled course only. -/
theorem test_vadd_lanes :
    ((queued (.vadd ⟨.va, 2, 3, 1, 1, 0, 0⟩) (on fun c => { c with v := [(128 + 16, 0x3F800000), (128, 0x3F800000)] })).any fun p =>
      p.dst.any fun d => match d with | .v 3 ls => ls.contains (16, 0x40000000) && ls.length == 16 && ls.all (fun x => decide (16 ≤ x.1)) | _ => false) = true := by
  decide

/-- R80: two bytes stored across the end of the offset space, and loaded with their sign. -/
theorem test_store_then_load :
    ((after (.sts ⟨1, 0, 0, 0x1FFFFFF⟩) (on fun c => c.ws 1 0x1122334455667788)).any fun t =>
      t.core.stores == [(0xFFFFFF, 0x88), (0x1000000, 0x77)]) = true ∧
    ((queued (.lds ⟨4, 0, 0, 0x5000000⟩) (on fun c => c.poolWriteRemote [(0, 0x88), (1, 0x87)])).any fun p => p.dst == [.s 4 0xFFFFFFFFFFFF8788]) = true := by
  decide

end Sys2Proof.Tests
end

section
/-! PROOFS. The expander's checks: what an accepted bundle is (R62, R71), the R form of the S slot read back from its bits (R48), and
the modifiers of R79. -/

namespace Sys2Proof

open Sys2Proof.Machine

/-! ## Fields -/

theorem or_one_shiftRight {k : Nat} (n : Nat) (hk : 0 < k) : (n ||| 1) >>> k = n >>> k := by
  have one : 1 >>> k = 0 := by
    rw [Nat.shiftRight_eq_div_pow, Nat.div_eq_of_lt (Nat.one_lt_two_pow hk.ne')]
  rw [Nat.shiftRight_or_distrib, one, Nat.or_zero]

theorem toNat_or_one (w : BitVec 384) : (w ||| 1).toNat = w.toNat ||| 1 :=
  (BitVec.toNat_or w 1).trans (congrArg (w.toNat ||| ·) (BitVec.toNat_one (by decide)))

@[simp] theorem bitOf_zero_or_one (n : Nat) : bitOf 0 (n ||| 1) = true := by simp [bitOf]

@[simp] theorem bitOf_or_one {k : Nat} (n : Nat) (hk : 0 < k) : bitOf k (n ||| 1) = bitOf k n := by
  rw [bitOf, or_one_shiftRight n hk, bitOf]

theorem field_or_one {hi lo : Nat} (n : Nat) (hlo : 0 < lo) : field hi lo (n ||| 1) = field hi lo n := by
  rw [field, or_one_shiftRight n hlo, field]

/-! ## Refused fields (R70) -/

/-- A fold whose every step gives a value gives one on a list that is not empty. -/
theorem isSome_foldl {α β : Type} {g : Option β → α → Option β} (hg : ∀ m a, (g m a).isSome = true) {l : List α} (hl : l ≠ [])
    (m : Option β) : (l.foldl g m).isSome = true := by
  rw [← List.dropLast_append_getLast hl, List.foldl_concat]
  exact hg _ _

theorem badField_isSome {i : Instr} {u : FieldUse} (hu : u ∈ fieldUses i) (hbad : u.bad = true) : (badField i).isSome = true := by
  refine isSome_foldl (fun m _ => ?_) (List.ne_nil_of_mem (List.mem_filter.mpr ⟨hu, hbad⟩)) none
  cases m <;> rfl

/-- An operation with a refused field and no reserved bit set is illegal with reason 0x08 (R71). -/
theorem checkFields_of_bad (sl : Slot) {i : Instr} {u : FieldUse} (hu : u ∈ fieldUses i) (hbad : u.bad = true) :
    ∃ p, checkFields sl 0 i = .error ⟨0x08, p, sl⟩ := by
  obtain ⟨p, hp⟩ := Option.isSome_iff_exists.mp (badField_isSome hu hbad)
  exact ⟨p, by simp [checkFields, hp]⟩

/-! ## The R form (R48) -/

/-- The fields of an R form lie side by side, so that its bits are a sum. -/
theorem RForm.bits_eq_sum (f : RForm) (op : Nat) : f.bits op =
    op * 2 ^ 48 + f.sd.toNat * 2 ^ 42 + f.sa.toNat * 2 ^ 36 + f.sb.toNat * 2 ^ 30 + f.pg.toNat * 2 ^ 26 + f.fn.toNat * 2 ^ 22 := by
  have hsd := f.sd.isLt
  have hsa := f.sa.isLt
  have hsb := f.sb.isLt
  have hpg := f.pg.isLt
  have hfn := f.fn.isLt
  simp only [RForm.bits, Nat.or_assoc]
  rw [← Nat.shiftLeft_add_eq_or_of_lt (i := 26), ← Nat.shiftLeft_add_eq_or_of_lt (i := 30), ← Nat.shiftLeft_add_eq_or_of_lt (i := 36),
    ← Nat.shiftLeft_add_eq_or_of_lt (i := 42), ← Nat.shiftLeft_add_eq_or_of_lt (i := 48)] <;>
  simp only [Nat.shiftLeft_eq] <;> omega

theorem RForm.field_opcode_bits (f : RForm) {op : Nat} (hop : op < 256) : field 55 48 (f.bits op) = op := by
  simp only [field, f.bits_eq_sum, Nat.shiftRight_eq_div_pow]
  omega

theorem RForm.field_reserved_bits (f : RForm) (op : Nat) : field 21 0 (f.bits op) = 0 := by
  simp only [field, f.bits_eq_sum, Nat.shiftRight_eq_div_pow]
  omega

theorem RForm.ofBits_bits (f : RForm) (op : Nat) : RForm.ofBits (f.bits op) = f := by
  obtain ⟨sd, sa, sb, pg, fn⟩ := f
  simp only [RForm.ofBits, field, RForm.bits_eq_sum, Nat.shiftRight_eq_div_pow, RForm.mk.injEq]
  refine ⟨?_, ?_, ?_, ?_, ?_⟩ <;> apply BitVec.eq_of_toNat_eq <;> rw [BitVec.toNat_ofNat] <;> omega

/-- The bits of an R form decode to the operation of its opcode, if the checks of its fields let it pass. -/
theorem decodeSlot_rBits (e : ExpandEnv) (f : RForm) {op : Nat} {mk : RForm → Instr} (h0 : op ≠ 0) (hop : op < 256)
    (hrow : opRow op sOps = some (.r mk)) : decodeSlot e .s (f.bits op) = checkFields .s 0 (mk f) := by
  simp only [decodeSlot, decodeS, f.field_opcode_bits hop, if_neg h0, hrow, f.field_reserved_bits, f.ofBits_bits]

/-- An R form with a refused field is illegal with reason 0x08. -/
theorem decodeSlot_rBits_of_bad (e : ExpandEnv) (f : RForm) {op : Nat} {mk : RForm → Instr} {u : FieldUse} (h0 : op ≠ 0)
    (hop : op < 256) (hrow : opRow op sOps = some (.r mk)) (hu : u ∈ fieldUses (mk f)) (hbad : u.bad = true) :
    ∃ p, decodeSlot e .s (f.bits op) = .error ⟨0x08, p, .s⟩ := by
  rw [decodeSlot_rBits e f h0 hop hrow]
  exact checkFields_of_bad .s hu hbad

/-- The modifier of an R form, with the values its operation allows. -/
theorem fn_mem_rUse (f : RForm) (sd sa sb : Use) (fn : Nat → Bool) : fu 22 f.fn.toNat (.allowed (fn f.fn.toNat)) ∈ rUse f sd sa sb fn :=
  List.mem_cons_self

theorem sd_mem_rUse (f : RForm) (sd sa sb : Use) (fn : Nat → Bool) : fu 42 f.sd.toNat sd ∈ rUse f sd sa sb fn := by simp [rUse]

/-- R79: FN[3:1] of FADD, FMUL and FFMA and FN[3:2] of CVTIF and CVTFI must be zero, and FN of FCMP at most 4: an operation that allows
the modifiers below `n` refuses the others. -/
theorem decodeSlot_rBits_of_fn (e : ExpandEnv) (f : RForm) {op n : Nat} {mk : RForm → Instr} {sd sa sb : Use} (h0 : op ≠ 0)
    (hop : op < 256) (hrow : opRow op sOps = some (.r mk)) (huses : fieldUses (mk f) = rUse f sd sa sb (· < n)) (hfn : n ≤ f.fn.toNat) :
    ∃ p, decodeSlot e .s (f.bits op) = .error ⟨0x08, p, .s⟩ :=
  decodeSlot_rBits_of_bad e f h0 hop hrow (huses ▸ fn_mem_rUse f sd sa sb _) (by simp [fu, FieldUse.bad, hfn])

/-- An SD that names a register beyond its family is refused; of R79, that of FCMP, which writes one of 16 predicates. -/
theorem decodeSlot_rBits_of_sd (e : ExpandEnv) (f : RForm) {op : Nat} {mk : RForm → Instr} {fam : Fam} {r w : Bool} {sa sb : Use}
    {fn : Nat → Bool} (h0 : op ≠ 0) (hop : op < 256) (hrow : opRow op sOps = some (.r mk))
    (huses : fieldUses (mk f) = rUse f (.reg fam r w) sa sb fn) (hsd : fam.size ≤ f.sd.toNat) :
    ∃ p, decodeSlot e .s (f.bits op) = .error ⟨0x08, p, .s⟩ :=
  decodeSlot_rBits_of_bad e f h0 hop hrow (huses ▸ sd_mem_rUse f _ sa sb fn) (by simp [fu, FieldUse.bad, hsd])

theorem fieldUses_fcmp (f : RForm) : fieldUses (.fcmp f) = rUse f (wr .p) (rd .s) (rd .s) (· < 5) := rfl

/-! ## Accepted bundles (R71) -/

theorem bind_eq_ok {ε α β : Type} {x : Except ε α} {f : α → Except ε β} {b : β} :
    (x >>= f) = .ok b ↔ ∃ a, x = .ok a ∧ f a = .ok b := by
  cases x <;> simp [bind, Except.bind]

/-- R71: a bundle is accepted when each slot passes its checks, no two slots write one target, and a K-slot operation has its brace. -/
theorem decodeBundle_eq_ok_iff (e : ExpandEnv) (w : BitVec 384) (b : Bundle) : decodeBundle e w = .ok b ↔
    (∃ h, checkSlot e .header (slotBits .header w) = .ok h) ∧ checkSlot e .s (slotBits .s w) = .ok b.s ∧
    checkSlot e .va (slotBits .va w) = .ok b.va ∧ checkSlot e .vb (slotBits .vb w) = .ok b.vb ∧
    checkSlot e .m (slotBits .m w) = .ok b.m ∧ checkSlot e .c0 (slotBits .c0 w) = .ok b.c0 ∧
    checkSlot e .c1 (slotBits .c1 w) = .ok b.c1 ∧ checkSlot e .k (slotBits .k w) = .ok b.k ∧
    b.brace = bitOf 0 w.toNat ∧ b.tmark = bitOf 1 w.toNat ∧ firstConflict [] b.ops = none ∧ (isNop b.k = true ∨ b.brace = true) := by
  simp only [decodeBundle, bind_eq_ok]
  constructor
  · rintro ⟨h, hh, s, hs, va, hva, vb, hvb, m, hm, c0, hc0, c1, hc1, k, hk, hb⟩
    split at hb
    next => cases hb
    next hfree =>
      split at hb
      next => cases hb
      next hbrace =>
        cases hb
        refine ⟨⟨h, hh⟩, hs, hva, hvb, hm, hc0, hc1, hk, rfl, rfl, hfree, ?_⟩
        simpa [or_iff_not_imp_left] using hbrace
  · obtain ⟨brace, tmark, s, va, vb, m, c0, c1, k⟩ := b
    rintro ⟨⟨h, hh⟩, hs, hva, hvb, hm, hc0, hc1, hk, rfl, rfl, hfree, hbrace⟩
    refine ⟨h, hh, s, hs, va, hva, vb, hvb, m, hm, c0, hc0, c1, hc1, k, hk, ?_⟩
    have hasBrace : (!isNop k && !bitOf 0 w.toNat) = false := by
      rcases hbrace with hbrace | hbrace <;> simp_all
    simp [hfree, hasBrace]

theorem decodeSlot_of_checkSlot {e : ExpandEnv} {sl : Slot} {w : Nat} {i : Instr} (h : checkSlot e sl w = .ok i) :
    decodeSlot e sl w = .ok i := by
  unfold checkSlot at h
  split at h
  next => cases h
  next j hj =>
    split at h
    next => cases h
    next =>
      split at h
      next => cases h
      next => rw [hj, h]

/-! ## The K slot and its brace (R62) -/

theorem not_isNop_of_kOps {op : Nat} {mk : KForm → Instr} (h : opRow op kOps = some mk) (f : KForm) : isNop (mk f) = false := by
  simp only [kOps, opRow] at h
  split_ifs at h <;> cases h <;> rfl

/-- A K slot with an opcode holds an operation. -/
theorem not_isNop_of_decodeK {e : ExpandEnv} {w : Nat} {i : Instr} (hop : field 47 40 w ≠ 0) (h : decodeK e w = .ok i) :
    isNop i = false := by
  rw [decodeK, if_neg hop] at h
  split at h
  next => cases h
  next mk hrow =>
    dsimp only at h
    split at h
    next => cases h
    next =>
      split at h
      next => cases h
      next => cases h; exact not_isNop_of_kOps hrow _

/-- The opcode of the K slot is the bundle's highest byte. -/
theorem field_opcode_kBits (w : BitVec 384) : field 47 40 (slotBits .k w) = w.toNat / 2 ^ 376 := by
  have := w.isLt
  simp only [field, slotBits, slotBase, slotWidth, Nat.shiftRight_eq_div_pow]
  omega

theorem slotBits_or_one {sl : Slot} (w : BitVec 384) (hsl : sl ≠ .header) : slotBits sl (w ||| 1) = slotBits sl w := by
  have hbase : 0 < slotBase sl := by
    cases sl with
    | header => exact absurd rfl hsl
    | _ => decide
  rw [slotBits, toNat_or_one, or_one_shiftRight _ hbase, slotBits]

/-- A header is legal by its reserved bits alone (R45). -/
theorem checkSlot_header (e : ExpandEnv) (w : BitVec 384) : checkSlot e .header (slotBits .header w) =
    if field 7 2 w.toNat = 0 then .ok (.nop .header) else .error ⟨0x02, 2, .header⟩ := by
  have hfield : field 7 2 (slotBits .header w) = field 7 2 w.toNat := by
    simp only [field, slotBits, slotBase, slotWidth, Nat.shiftRight_eq_div_pow]
    omega
  simp only [checkSlot, decodeSlot, hfield]
  split_ifs <;> rfl

/-- R62: the last check of R71 refuses a K-slot operation whose bundle has BRACE = 0, whatever the slots before it hold. -/
theorem decodeBundle_error_of_unbraced (e : ExpandEnv) (w : BitVec 384) (hop : w.toNat / 2 ^ 376 ≠ 0) (hbrace : w.toNat % 2 = 0) :
    ∃ r, decodeBundle e w = .error r := by
  cases h : decodeBundle e w with
  | error r => exact ⟨r, rfl⟩
  | ok b =>
    obtain ⟨-, -, -, -, -, -, -, hk, hb, -, -, hnop | hset⟩ := (decodeBundle_eq_ok_iff e w b).mp h
    · have hfull := not_isNop_of_decodeK (field_opcode_kBits w ▸ hop) (decodeSlot_of_checkSlot hk)
      simp [hnop] at hfull
    · simp [hb, bitOf, hbrace] at hset

/-- R62: setting BRACE leaves an accepted bundle accepted, and changes nothing else of it. -/
theorem decodeBundle_or_one {e : ExpandEnv} {w : BitVec 384} {b : Bundle} (h : decodeBundle e w = .ok b) :
    decodeBundle e (w ||| 1) = .ok { b with brace := true } := by
  obtain ⟨hh, hs, hva, hvb, hm, hc0, hc1, hk, -, htmark, hfree, -⟩ := (decodeBundle_eq_ok_iff e w b).mp h
  rw [checkSlot_header] at hh
  rw [decodeBundle_eq_ok_iff, checkSlot_header, toNat_or_one, field_or_one _ (by decide)]
  simp only [slotBits_or_one w, ne_eq, reduceCtorEq, not_false_eq_true, or_true, and_true]
  exact ⟨hh, hs, hva, hvb, hm, hc0, hc1, hk, (bitOf_zero_or_one _).symm, by rw [bitOf_or_one _ Nat.one_pos, htmark], hfree⟩

/-- Settles O56: R62 by the last check of a bundle, R79 by the field uses of the six operations. -/
theorem modifiersAndMissingBracesAreIllegal : Obligations.ModifiersAndMissingBracesAreIllegal := by
  refine ⟨decodeBundle_error_of_unbraced, fun e w b _ h => decodeBundle_or_one h, fun e f => ⟨?_, fun hfn => ⟨?_, ?_, ?_⟩, fun hfn => ⟨?_, ?_⟩⟩⟩
  · rintro (hsd | hfn)
    · exact decodeSlot_rBits_of_sd (mk := Instr.fcmp) e f (by decide) (by decide) rfl (fieldUses_fcmp f) hsd
    · exact decodeSlot_rBits_of_fn (mk := Instr.fcmp) e f (by decide) (by decide) rfl (fieldUses_fcmp f) hfn
  · exact decodeSlot_rBits_of_fn (mk := Instr.fadd) e f (by decide) (by decide) rfl rfl hfn
  · exact decodeSlot_rBits_of_fn (mk := Instr.fmul) e f (by decide) (by decide) rfl rfl hfn
  · exact decodeSlot_rBits_of_fn (mk := Instr.ffma) e f (by decide) (by decide) rfl rfl hfn
  · exact decodeSlot_rBits_of_fn (mk := Instr.cvtif) e f (by decide) (by decide) rfl rfl hfn
  · exact decodeSlot_rBits_of_fn (mk := Instr.cvtfi) e f (by decide) (by decide) rfl rfl hfn

end Sys2Proof
end

section
/-! PROOFS. Taking a trap under a handler (R337, R342, R345): the rollback, which does not depend on the trace record, and the entry of
the handler. -/

namespace Sys2Proof.Machine

open Sys2Proof.Claims

/-! ## A rollback does not depend on the trace record -/

/-- A core with another trace record; what a trap does to the rest of the core does not depend on it. -/
def Core.traced (c : Core) (x : Trace) : Core := { c with trace := x }

theorem Core.wv_traced (c : Core) (x : Trace) (n : Nat) (l : List (Nat × W32)) : (c.traced x).wv n l = (c.wv n l).traced x := by
  have hgate (a : Nat) : (c.traced x).gated a = c.gated a := rfl
  have hlog : ((c.traced x).logs && !(c.traced x).logHasV n) = (c.logs && !c.logHasV n) := rfl
  unfold Core.wv Core.logV
  rw [hgate, hlog]
  split
  · rfl
  · split <;> rfl

theorem Core.wz_traced (c : Core) (x : Trace) (n : Nat) (l : List (Nat × W32)) : (c.traced x).wz n l = (c.wz n l).traced x := by
  have hgate (a : Nat) : (c.traced x).gated a = c.gated a := rfl
  have hpart : (c.traced x).partword = c.partword := rfl
  have hlog : ((c.traced x).logs && !(c.traced x).logHasZ n) = (c.logs && !c.logHasZ n) := rfl
  unfold Core.wz Core.logZ
  rw [hgate, hpart, hlog]
  split
  · rfl
  · split <;> rfl

theorem Core.write_traced (c : Core) (x : Trace) (d : Dst) : (c.traced x).write d = (c.write d).traced x := by
  cases d with
  | v n l => exact c.wv_traced x n l
  | z n l => exact c.wz_traced x n l
  | s n y => by_cases hn : n = 0 <;> simp [Core.write, Core.ws, hn, Core.traced]
  | p n y => by_cases hn : n = 0 <;> simp [Core.write, Core.wp, hn, Core.traced]
  | q n m y => by_cases hn : n = 0 <;> simp [Core.write, Core.wq, hn, Core.traced, Core.rq]
  | _ => rfl

/-- The core that `Core.writeKept` writes for the brace copies: in handler mode, with the copies in its registers. -/
def Core.inBrace (c : Core) : Core :=
  { c with mode := true, s := c.brace.s, p := c.brace.p, q := c.brace.q, a := c.brace.a, h := c.brace.h, lc := c.brace.lc,
           fm := c.brace.fm, strict := c.brace.strict, kest := c.brace.kest, ftb := c.brace.ftb, ftsel := c.brace.ftsel }

/-- A core with the registers of another in its brace copies, back in the mode of a third. -/
def Core.keeping (n k c : Core) : Core :=
  { n with mode := c.mode,
           brace := { c.brace with s := k.s, p := k.p, q := k.q, a := k.a, h := k.h, lc := k.lc, fm := k.fm, strict := k.strict,
                                   kest := k.kest, ftb := k.ftb, ftsel := k.ftsel } }

theorem Core.writeKept_eq (c : Core) (d : Dst) :
    c.writeKept d = (({ c with mode := true } : Core).write d).keeping (c.inBrace.write d) c := rfl

theorem Core.writeKept_traced (c : Core) (x : Trace) (d : Dst) : (c.traced x).writeKept d = (c.writeKept d).traced x :=
  calc (c.traced x).writeKept d
    _ = ((({ c with mode := true } : Core).traced x).write d).keeping ((c.inBrace.traced x).write d) c := rfl
    _ = ((({ c with mode := true } : Core).write d).traced x).keeping ((c.inBrace.write d).traced x) c := by
      rw [Core.write_traced, Core.write_traced]
    _ = (c.writeKept d).traced x := rfl

theorem Core.landKept_traced (c : Core) (x : Trace) (p : Pending) : (c.traced x).landKept p = (c.landKept p).traced x :=
  congrArg (Core.raise · p.flags) (List.foldl_hom (Core.traced · x) fun c d => c.writeKept_traced x d)

theorem Core.settleLeft_traced (c : Core) (x : Trace) : (c.traced x).settleLeft = c.settleLeft.traced x :=
  List.foldl_hom (init := { c with left := [] }) (Core.traced · x) fun c p => c.landKept_traced x p

theorem Core.renew_traced (c : Core) (x : Trace) : (c.traced x).renew = c.renew.traced x := by
  have hset : ((c.traced x).reissue && !(c.traced x).mode) = (c.reissue && !c.mode) := rfl
  unfold Core.renew
  rw [hset]
  split <;> rfl

theorem Core.undo_traced (c : Core) (x : Trace) (r : LogRec) : (c.traced x).undo r = (c.undo r).traced x := by
  cases r <;> rfl

theorem Core.undoLog_traced (c : Core) (x : Trace) : (c.traced x).undoLog = c.undoLog.traced x :=
  congrArg (fun d : Core => { d with log := c.log.filter fun r => r.ivl != c.interval })
    (List.foldl_hom (Core.traced · x) fun c r => c.undo_traced x r)

theorem Core.rollback_traced (c : Core) (x : Trace) : (c.traced x).rollback = c.rollback.traced x := by
  unfold Core.rollback
  dsimp only
  rw [Core.settleLeft_traced, Core.renew_traced, Core.undoLog_traced]
  rfl

/-! ## What a rollback and the entry of a handler leave alone (R216, R343, R345) -/

theorem Core.write_left (c : Core) (d : Dst) : (c.write d).left = c.left := by
  cases d with
  | v n l => cases hg : c.gated (n * 512) <;> cases hl : c.logs && !c.logHasV n <;> simp [Core.write, Core.wv, Core.logV, hl, hg]
  | z n l =>
    cases hg : c.gated (partRf c.partword * bankBytes + n * 16384) <;> cases hl : c.logs && !c.logHasZ n <;>
      simp [Core.write, Core.wz, Core.logZ, hl, hg]
  | s n y => by_cases hn : n = 0 <;> simp [Core.write, Core.ws, hn]
  | p n y => by_cases hn : n = 0 <;> simp [Core.write, Core.wp, hn]
  | q n m y => by_cases hn : n = 0 <;> simp [Core.write, Core.wq, hn]
  | _ => rfl

/-- A field that a step keeps is kept by a fold of steps. -/
theorem foldl_keeps {α β γ : Type} (get : β → γ) {f : β → α → β} (hf : ∀ b a, get (f b a) = get b) (l : List α) (b : β) :
    get (l.foldl f b) = get b := by
  induction l generalizing b with
  | nil => rfl
  | cons a rest ih => rw [List.foldl_cons, ih, hf]

theorem Core.landKept_left (c : Core) (p : Pending) : (c.landKept p).left = c.left :=
  foldl_keeps (f := Core.writeKept) Core.left (fun c d => ({ c with mode := true } : Core).write_left d) p.dst c

theorem Core.settleLeft_left (c : Core) : c.settleLeft.left = [] :=
  foldl_keeps Core.left Core.landKept_left c.left { c with left := [] }

theorem Core.renew_left (c : Core) : c.renew.left = c.left := by
  unfold Core.renew
  split <;> rfl

/-- The log puts back v registers, tiles and pool bytes only. -/
theorem Core.undoLog_frame (c : Core) : c.undoLog.flags = c.flags ∧ c.undoLog.brace = c.brace ∧ c.undoLog.left = c.left :=
  ⟨foldl_keeps Core.flags (fun c r => by cases r <;> rfl) c.log c, foldl_keeps Core.brace (fun c r => by cases r <;> rfl) c.log c,
    foldl_keeps Core.left (fun c r => by cases r <;> rfl) c.log c⟩

/-- What a rollback keeps of the core it starts from, once what handler mode has left has settled: the flags and the copies. -/
theorem Core.rollback_frame (c : Core) : c.rollback.flags = c.settleLeft.renew.flags ∧ c.rollback.brace = c.settleLeft.renew.brace ∧
    c.rollback.left = [] := by
  obtain ⟨hflags, hbrace, hleft⟩ := c.settleLeft.renew.undoLog_frame
  exact ⟨hflags, hbrace, hleft.trans (by rw [Core.renew_left, Core.settleLeft_left])⟩

/-- The prefetch engine changes the idle half only. -/
theorem Core.prefetch_eq (c : Core) (k : Kernel) : c.prefetch k = { c with idle := (c.prefetch k).idle } := by
  unfold Core.prefetch
  split
  · rfl
  · split
    · rfl
    · split <;> rfl

/-- Control passing to a position changes the sequencer and the record of a miss only. -/
theorem Core.goto_eq (c : Core) (k : Kernel) (p : Position) :
    c.goto k p = { c with pos := p, npos := none, braced := false, issued := false,
                          cur := (c.goto k p).cur, idle := (c.goto k p).idle, trace := (c.goto k p).trace } := by
  unfold Core.goto
  dsimp only
  split
  · rfl
  · split <;> rw [Core.prefetch_eq]

/-- R345: the core that enters the handler is the one rolled back, with the trap registers set and control at the handler. -/
theorem Core.enterHandler_eq (c : Core) (k : Kernel) (g : Nat) (t : Trap) : ∃ cur idle tr free, c.enterHandler k g t =
    { c.rollback with
      ksave := statusWord c.rollback.flags c.rollback.strict false, trapPc := c.rollback.brace.pos.word, trapAt := c.pos.word,
      trapSlot := BitVec.ofNat 8 (slotNum t.slot), trapCause := BitVec.ofNat 16 t.cause, trapInfo := BitVec.ofNat 64 t.info,
      mode := true, frozenFor := 0, pos := ⟨g, 0⟩, npos := none, braced := false, issued := false, cur := cur, idle := idle,
      trace := tr, notBefore := free } := by
  unfold Core.enterHandler
  dsimp only
  rw [Core.goto_eq]
  exact ⟨_, _, _, _, rfl⟩

/-! ## Taking a trap (R345) -/

/-- A trap under a handler: the event is recorded, and the core enters the handler. -/
theorem State.takeTrap_of_handled {s : State} {g : Nat} (h : Handled s g) (t : Trap) :
    ∃ k x, s.takeTrap t = { s with core := (s.core.traced x).enterHandler k g t } := by
  obtain ⟨hmode, k, hmine, hg⟩ := h
  refine ⟨k, s.core.trace.event k.trace s.mcyc 5 t.cause s.core.pos, ?_⟩
  simp only [State.takeTrap, State.trace, hmine, hmode, hg]
  rfl

/-- R337, R342, R345: a trap under a handler is taken as `TrapTaken` says. -/
theorem trapTaken_takeTrap {s : State} {g : Nat} (h : Handled s g) (t : Trap) : TrapTaken s (s.takeTrap t) g t := by
  obtain ⟨k, x, htake⟩ := s.takeTrap_of_handled h t
  obtain ⟨cur, idle, tr, free, henter⟩ := (s.core.traced x).enterHandler_eq k g t
  rw [htake, henter, Core.rollback_traced]
  obtain ⟨hflags, hbrace, hleft⟩ := s.core.rollback_frame
  unfold TrapTaken
  dsimp only [Core.traced]
  rw [hflags, hbrace, hleft]
  and_intros <;> rfl

end Sys2Proof.Machine
end

section
/-! PROOFS. Comparisons, token tests and register moves of the S slot (R75, R76, R84, R88, R90, R95, R97). -/

namespace Sys2Proof

open Sys2Proof.Machine Sys2Proof.Claims

/-! ## Guarded operations with one result, and operations that may trap (R47, R72, R345) -/

/-- A guarded operation under a true guard that leaves one result on its way. -/
theorem queues_of_guarded {i : Instr} {s : State} {g : Bool} {sl : Slot} {lat : Nat} {d : List Dst} {f : Flags}
    (hexec : exec i s = guarded g s fun _ => { s with core := s.core.later sl lat d f }) (hg : g = true) : Queues i s sl lat d f := by
  rw [Queues, hexec, hg, guarded_true]
  rfl

/-- One that may trap and does not. -/
theorem queues_of_orTrap {i : Instr} {s : State} {g : Bool} {trap : Option Trap} {sl : Slot} {lat : Nat} {d : List Dst} {f : Flags}
    (hexec : exec i s = guarded g s fun _ => s.orTrap trap fun _ => { s with core := s.core.later sl lat d f }) (hg : g = true)
    (htrap : trap = none) : Queues i s sl lat d f :=
  queues_of_guarded (hexec.trans (by rw [htrap, State.orTrap_none])) hg

/-- One that traps. -/
theorem traps_of_orTrap {i : Instr} {s : State} {g : Bool} {n : Nat} {trap : Option Trap} {effect : State → State} {t : Trap}
    (hexec : exec i s = guarded g s fun s => s.orTrap trap effect) (hg : g = true) (htrap : trap = some t) (h : Handled s n) :
    Traps i s n t :=
  ⟨s.takeTrap t, by rw [hexec, hg, guarded_true, htrap, State.orTrap_some], trapTaken_takeTrap h t⟩

/-! ## CMP, FCMP and TTEST (R75, R78, R90) -/

/-- R75: the relation that each FN names. -/
theorem cmpHolds_iff (x y : W64) : ∀ row ∈ ([(0, x = y), (1, x ≠ y), (2, x.toInt < y.toInt), (3, y.toInt ≤ x.toInt),
    (4, x.toNat < y.toNat), (5, y.toNat ≤ x.toNat)] : List (Nat × Prop)), (cmpHolds row.1 x y = true ↔ row.2) := by
  intro row hrow
  simp only [List.mem_cons, List.not_mem_nil, or_false] at hrow
  rcases hrow with rfl | rfl | rfl | rfl | rfl | rfl
  · exact beq_iff_eq
  · exact bne_iff_ne
  · exact decide_eq_true_iff
  · simp [cmpHolds, lessW]
  · exact decide_eq_true_iff
  · simp [cmpHolds, lessW]

/-- R78: the relation that each FN names, and whether a quiet NaN raises NV. -/
theorem floatRel_eq (a b : Val) : ∀ row ∈ ([(0, a.eqv b, false), (1, !a.eqv b, false), (2, a.lt b, true), (3, a.lt b || a.eqv b, true),
    (4, a.isNan || b.isNan, false)] : List (Nat × Bool × Bool)),
    floatRel row.1 a b = (row.2.1, if row.2.2 then a.isNan || b.isNan else a.signalling || b.signalling) := by
  intro row hrow
  simp only [List.mem_cons, List.not_mem_nil, or_false] at hrow
  rcases hrow with rfl | rfl | rfl | rfl | rfl <;> rfl

theorem fieldUses_cmp (f : RForm) : fieldUses (.cmp f) = rUse f (wr .p) (rd .s) (rd .s) (· < 6) := rfl

/-- R75: what makes a CMP illegal. -/
theorem decodeSlot_cmp_illegal (e : ExpandEnv) (f : RForm) (h : 16 ≤ f.sd.toNat ∨ 5 < f.fn.toNat) :
    ∃ field, decodeSlot e .s (f.bits 0x14) = .error ⟨0x08, field, .s⟩ := by
  rcases h with hsd | hfn
  · exact decodeSlot_rBits_of_sd (mk := Instr.cmp) e f (by decide) (by decide) rfl (fieldUses_cmp f) hsd
  · exact decodeSlot_rBits_of_fn (mk := Instr.cmp) e f (by decide) (by decide) rfl (fieldUses_cmp f) hfn

/-- R78: FCMP writes the relation that FN names. -/
theorem queues_fcmp (f : RForm) (s : State) (hg : s.core.rp f.pg.toNat = true) :
    Queues (.fcmp f) s .s 1 [.p f.sd.toNat (floatRel f.fn.toNat (f32Of (s.core.rs f.sa.toNat)) (f32Of (s.core.rs f.sb.toNat))).1]
      (Flags.nvIf (floatRel f.fn.toNat (f32Of (s.core.rs f.sa.toNat)) (f32Of (s.core.rs f.sb.toNat))).2) :=
  queues_of_guarded rfl hg

/-- Settles O5: R75 by the relations of CMP and the field uses of its encoding, R78 by those of FCMP. -/
theorem comparisonsAndTokenTestsWriteAPredicate : Obligations.ComparisonsAndTokenTestsWriteAPredicate := by
  refine ⟨decodeSlot_cmp_illegal, Core.wp_zero, fun f s hg => ⟨fun row hrow hfn => ?_, fun row hrow hfn => ?_, ?_⟩⟩
  · exact ⟨_, hfn ▸ cmpHolds_iff _ _ row hrow, queues_of_guarded rfl hg⟩
  · have hresult := queues_fcmp f s hg
    rwa [hfn, floatRel_eq (f32Of _) (f32Of _) row hrow] at hresult
  · exact queues_of_guarded rfl hg

/-! ## The register moves (R76, R84, R88, R90, R95, R97) -/

/-- R76: the OFF field moves on modulo 2^24, and the fields above it stay. -/
theorem aAdd_eq (a y : W64) :
    aAdd a y = BitVec.ofNat 64 (a.toNat / 2 ^ 24 * 2 ^ 24 + (a.toNat + y.toNat) % 2 ^ 24) := by
  have ha := a.isLt
  have hhigh : a.toNat / 2 ^ 24 % 2 ^ 40 = a.toNat / 2 ^ 24 := Nat.mod_eq_of_lt (by omega)
  have hoff : aOff a = a.toNat % 2 ^ 24 := rfl
  rw [aAdd, aWithOff, hhigh, hoff, Nat.mod_add_mod]

theorem aAdd_sext (a : W64) (imm : W32) :
    aAdd a (sext imm) = BitVec.ofNat 64 (a.toNat / 2 ^ 24 * 2 ^ 24 + (((a.toNat : Int) + imm.toInt) % 2 ^ 24).toNat) := by
  have hext : ((a.toNat + (sext imm).toNat : Nat) : Int) % 2 ^ 24 = ((a.toNat : Int) + imm.toInt) % 2 ^ 24 := by
    rw [sext, BitVec.toNat_ofInt]
    omega
  rw [aAdd_eq]
  congr 2
  omega

/-- R95, R223: a word without reserved bits, of a width of 2 to 8 and a SPEC other than 11, is a legal shape word. -/
theorem shapeLegal_of {w : Nat} (hw : w < 2 ^ 17) (h2 : 2 ≤ w % 2 + w / 2 % 8 + w / 16 % 8) (h8 : w % 2 + w / 2 % 8 + w / 16 % 8 ≤ 8)
    (hspec : w / 2 ^ 15 ≠ 3) : shapeLegal w = true := by
  have hword : (BitVec.ofNat 32 w).toNat = w := by rw [BitVec.toNat_ofNat]; omega
  have hsgn : (if bitOf 0 w then 1 else 0) = w % 2 := by
    rw [bitOf, Nat.shiftRight_zero]
    rcases Nat.mod_two_eq_zero_or_one w with h | h <;> simp [h]
  have hwidth : (Shape.ofWord (BitVec.ofNat 32 w)).width = w % 2 + w / 2 % 8 + w / 16 % 8 := by
    simp [Shape.width, Shape.ofWord, hword, hsgn, field, Nat.shiftRight_eq_div_pow]
  have hspecField : (Shape.ofWord (BitVec.ofNat 32 w)).spec = w / 2 ^ 15 := by
    simp only [Shape.ofWord, hword, field, Nat.shiftRight_eq_div_pow]
    omega
  simpa [shapeLegal, hwidth, hspecField, h2, h8] using ⟨hw, hspec⟩

theorem ftldTrap_none_of_legal {f : RForm} {s : State} (h : shapeLegal (s.core.rs f.sa.toNat).toNat = true) : ftldTrap f s = none := by
  simp [ftldTrap, h]

theorem fieldUses_hmov (f : RForm) : fieldUses (.hmov f) =
    rUse f (if f.fn.toNat = 1 then wr .s else wr .h) (if f.fn.toNat = 2 then rd .s else rd .h) .zero (· < 3) := rfl

/-- R84: HMOV traps with FN 2 on a word with a bit of [63:57] set. -/
theorem hmovTrap_eq (f : RForm) (s : State) (hg : s.core.rp f.pg.toNat = true) : hmovTrap f s =
    if f.fn.toNat = 2 ∧ 2 ^ 57 ≤ (s.core.rs f.sa.toNat).toNat then some (refFault 1 (s.core.rs f.sa.toNat)) else none := by
  have hlt := (s.core.rs f.sa.toNat).isLt
  have htop : field 63 57 (s.core.rs f.sa.toNat).toNat ≠ 0 ↔ 2 ^ 57 ≤ (s.core.rs f.sa.toNat).toNat := by
    rw [field, Nat.shiftRight_eq_div_pow]
    omega
  simp [hmovTrap, hg, htop]

/-- R84: an HMOV with no such FN is illegal. -/
theorem decodeSlot_hmov_illegal (e : ExpandEnv) (f : RForm) (h : 2 < f.fn.toNat) :
    ∃ field, decodeSlot e .s (f.bits 0x54) = .error ⟨0x08, field, .s⟩ :=
  decodeSlot_rBits_of_fn (mk := Instr.hmov) e f (by decide) (by decide) rfl (fieldUses_hmov f) h

/-- R84: what HMOV writes, by its FN. -/
def hmovDst (f : RForm) (c : Core) : Dst :=
  if f.fn.toNat = 0 then .h f.sd.toNat (c.rh f.sa.toNat)
  else if f.fn.toNat = 1 then .s f.sd.toNat (c.rh f.sa.toNat)
  else .h f.sd.toNat (c.rs f.sa.toNat)

theorem execHmov_eq (f : RForm) (s : State) : execHmov f s =
    guarded (s.core.rp f.pg.toNat) s fun s => s.orTrap (hmovTrap f s) fun s => s.mapCore fun c => c.later .s 1 [hmovDst f c] := by
  unfold execHmov hmovDst
  rcases f.fn.toNat with _ | _ | n <;> rfl

/-- R84: an HMOV that does not trap writes what its FN names. -/
theorem queues_hmov (f : RForm) (s : State) (hg : s.core.rp f.pg.toNat = true)
    (hok : f.fn.toNat = 2 → (s.core.rs f.sa.toNat).toNat < 2 ^ 57) : Queues (.hmov f) s .s 1 [hmovDst f s.core] {} := by
  have hnone : hmovTrap f s = none := by
    rw [hmovTrap_eq f s hg, if_neg]
    rintro ⟨hfn, hbig⟩
    exact absurd (hok hfn) (by omega)
  exact queues_of_orTrap (execHmov_eq f s) hg hnone

/-- Settles O6: the moves by the rules of guarded operations, HMOV and FTLD by the traps that they do not take, and the trap of HMOV by
what taking a trap leaves. -/
theorem registerMovesGiveTheirResults : Obligations.RegisterMovesGiveTheirResults := by
  refine ⟨fun f s hg => ?_, fun f s hg => ?_, fun f s g h hg hfn hbig => ?_, decodeSlot_hmov_illegal⟩
  · refine ⟨queues_of_guarded rfl hg, queues_of_guarded rfl hg, ?_, queues_of_guarded rfl hg, queues_of_guarded rfl hg,
      queues_of_guarded rfl hg, fun hfn => ?_, fun hfn => ?_, fun hfn hok => ?_, fun hw h2 h8 hspec => ?_⟩
    · rw [← aAdd_eq]
      exact queues_of_guarded rfl hg
    · have hresult := queues_hmov f s hg (by omega)
      rwa [hmovDst, hfn] at hresult
    · have hresult := queues_hmov f s hg (by omega)
      rwa [hmovDst, hfn] at hresult
    · have hresult := queues_hmov f s hg fun _ => hok
      rwa [hmovDst, hfn] at hresult
    · exact queues_of_orTrap rfl hg (ftldTrap_none_of_legal (shapeLegal_of hw h2 h8 hspec))
  · refine ⟨?_, ?_, ?_⟩
    · rw [← aAdd_sext]
      exact queues_of_guarded rfl hg
    · have hwrap (n : Nat) : BitVec.ofNat 32 (n % 2 ^ 32) = BitVec.ofNat 32 n := BitVec.eq_of_toNat_eq (by simp)
      rw [hwrap]
      exact queues_of_guarded rfl hg
    · have hftb : BitVec.ofNat 6 (f.imm.toNat % 64) = f.imm.setWidth 6 := BitVec.eq_of_toNat_eq (by simp)
      have hftsel : f.imm.toNat / 256 % 4 = field 9 8 f.imm.toNat := by simp [field, Nat.shiftRight_eq_div_pow]
      rw [hftb, hftsel]
      exact queues_of_guarded rfl hg
  · exact traps_of_orTrap rfl hg (by rw [hmovTrap_eq f s hg, if_pos ⟨hfn, hbig⟩]; rfl) h

end Sys2Proof
end

section
/-! PROOFS. Vector selects, predicate logic and compares (R98, R107, R108, R109). -/

namespace Sys2Proof

open Sys2Proof.Machine Sys2Proof.Claims

/-! ## Lanes and masks (R98) -/

theorem bitOf_toNat {w : Nat} (l : Nat) (x : BitVec w) : bitOf l x.toNat = x.getLsbD l := by
  rw [BitVec.getLsbD, Nat.testBit_eq_decide_div_mod_eq, bitOf, Nat.shiftRight_eq_div_pow, beq_eq_decide]

theorem courseLanes_eq (f : VForm) : courseLanes f = inCourses f := by
  simp only [courseLanes, inCourses, bitOf_toNat]

theorem actingLanes_eq (c : Core) (f : VForm) : actingLanes c f = acting c f := by
  simp only [actingLanes, acting, laneActs, bitOf_toNat]

theorem lt_of_mem_acting {c : Core} {f : VForm} {l : Nat} (h : l ∈ acting c f) : l < 128 :=
  List.mem_range.mp (List.mem_filter.mp h).1

theorem testBit_foldl_or_pow (ls : List Nat) (n l : Nat) :
    (ls.foldl (fun n l => n ||| 2 ^ l) n).testBit l = (n.testBit l || ls.contains l) := by
  induction ls generalizing n with
  | nil => simp
  | cons x xs ih =>
    rw [List.foldl_cons, ih, Nat.testBit_or, Nat.testBit_two_pow, List.contains_cons, Bool.or_assoc, beq_eq_decide]
    simp only [eq_comm]

theorem getLsbD_maskOf (ls : List Nat) (l : Nat) : (maskOf ls).getLsbD l = (decide (l < 128) && ls.contains l) := by
  rw [maskOf, BitVec.getLsbD_ofNat, testBit_foldl_or_pow, Nat.zero_testBit, Bool.false_or]

/-! ## Results for q registers (R98, R109) -/

/-- The operation's result lands 2 cc after issue in the acting lanes of q[VD], where bit l takes the value `x l`, and raises NV if `nv`. -/
def PredicateLands (i : Instr) (s : State) (f : VForm) (x : Nat → Bool) (nv : Bool) : Prop :=
  ∃ m y : BitVec 128, (∀ l, l < 128 → m.getLsbD l = (acting s.core f).contains l) ∧ (∀ l, m.getLsbD l = true → y.getLsbD l = x l) ∧
    Queues i s (vslot f.unit) 2 [.q f.vd.toNat m y] { nv := nv }

/-- A result under the mask of the acting lanes lands in them. -/
theorem predicateLands_of_queues {i : Instr} {s : State} {f : VForm} {y : BitVec 128} {x : Nat → Bool} {nv : Bool}
    (hy : ∀ l ∈ acting s.core f, y.getLsbD l = x l)
    (hq : Queues i s (vslot f.unit) 2 [.q f.vd.toNat (maskOf (acting s.core f)) y] { nv := nv }) : PredicateLands i s f x nv := by
  refine ⟨_, y, fun l hl => ?_, fun l hl => hy l ?_, hq⟩
  · rw [getLsbD_maskOf, decide_eq_true hl, Bool.true_and]
  · rw [getLsbD_maskOf, Bool.and_eq_true] at hl
    exact List.contains_iff_mem.mp hl.2

/-- R109: an operation on whole q registers writes its value in the acting lanes. -/
theorem predicateLands_of_qResult {i : Instr} {s : State} {f : VForm} {g : Core → BitVec 128} {x : Nat → Bool}
    (hexec : exec i s = qResult f g s) (hx : ∀ l < 128, (g s.core).getLsbD l = x l) : PredicateLands i s f x false := by
  refine predicateLands_of_queues (fun l hl => hx l (lt_of_mem_acting hl)) ?_
  rw [Queues, hexec, ← actingLanes_eq]
  rfl

/-! ## Elements of a lane (R99) -/

/-- The elements of a lane, the lowest first. -/
def laneElems (ty : Nat) (x : W32) : List Nat := (List.range (32 / bitsOf ty)).map (elemOf (bitsOf ty) x)

theorem map_elemOf_eq_zip {α : Type} (ty : Nat) (x y : W32) (g : Nat → Nat → α) :
    (List.range (32 / elemWidth ty)).map (fun i => g (elemOf (elemWidth ty) x i) (elemOf (elemWidth ty) y i)) =
      ((laneElems ty x).zip (laneElems ty y)).map fun e => g e.1 e.2 := by
  rw [laneElems, laneElems, List.zip_map', List.map_map]
  rfl

theorem elemInt_eq_asInt {ty : Nat} (h : ty = 1 ∨ ty = 2 ∨ ty = 5 ∨ ty = 6) (x : Nat) : elemInt ty x = asInt ty x := by
  rcases h with rfl | rfl | rfl | rfl <;> simp [elemInt, asInt, isSigned, signedOf, elemWidth, bitsOf]

/-! ## Compares (R107) -/

theorem laneRel_int {ty : Nat} (h : ty = 1 ∨ ty = 2 ∨ ty = 5 ∨ ty = 6) (r : VRel) (x y : W32) :
    laneRel ty r x y = (((laneElems ty x).zip (laneElems ty y)).all fun e => r.onInt (asInt ty e.1) (asInt ty e.2), false) := by
  have hint : isFloat ty = false := by rcases h with rfl | rfl | rfl | rfl <;> rfl
  simp only [laneRel, hint, Bool.false_eq_true, if_false, elemInt_eq_asInt h]
  rw [map_elemOf_eq_zip ty x y fun a b => (r.onInt (asInt ty a) (asInt ty b), false), List.all_map, List.any_map]
  simp [Function.comp_def]

theorem laneRel_float {ty : Nat} (h : ty = 0 ∨ ty = 3 ∨ ty = 4) (r : VRel) (x y : W32) :
    let rel (e : Nat × Nat) := r.onVal ((floatOf ty).decodeIeee e.1) ((floatOf ty).decodeIeee e.2)
    laneRel ty r x y = (((laneElems ty x).zip (laneElems ty y)).all fun e => (rel e).1,
      ((laneElems ty x).zip (laneElems ty y)).any fun e => (rel e).2) := by
  have hfloat : isFloat ty = true := by rcases h with rfl | rfl | rfl <;> rfl
  simp only [laneRel, hfloat, if_true]
  rw [map_elemOf_eq_zip ty x y fun a b => r.onVal ((floatShape ty).decodeIeee a) ((floatShape ty).decodeIeee b), List.all_map, List.any_map]
  rfl

/-- R107: a compare writes, lane by lane, whether its relation holds of every element, and raises NV where a lane does. -/
theorem predicateLands_of_vCompare {i : Instr} {s : State} {f : VForm} {r : VRel} (hexec : exec i s = vCompare f r s) :
    let rel (l : Nat) := laneRel f.ty.toNat r (s.core.rv f.va.toNat l) (s.core.rv f.vb.toNat l)
    PredicateLands i s f (fun l => (rel l).1) ((acting s.core f).any fun l => (rel l).2) := by
  intro rel
  refine predicateLands_of_queues (y := maskOf ((acting s.core f).filter fun l => (rel l).1)) (fun l hl => ?_) ?_
  · rw [getLsbD_maskOf, decide_eq_true (lt_of_mem_acting hl), Bool.true_and, Bool.eq_iff_iff, List.contains_iff_mem, List.mem_filter]
    exact and_iff_right hl
  · have hset : ((((acting s.core f).map fun l => (l, rel l)).filter fun x => x.2.1).map (·.1)) = (acting s.core f).filter fun l => (rel l).1 := by
      rw [List.filter_map, List.map_map]
      exact List.map_id _
    have hnv : (((acting s.core f).map fun l => (l, rel l)).any fun x => x.2.2) = (acting s.core f).any fun l => (rel l).2 := List.any_map
    rw [Queues, hexec, ← hset, ← hnv, ← actingLanes_eq]
    rfl

/-- R107 on integers: the relation of the elements' values, and no flag. -/
theorem predicateLands_of_vCompare_int {i : Instr} {s : State} {f : VForm} {r : VRel} (hexec : exec i s = vCompare f r s)
    (hty : f.ty.toNat = 1 ∨ f.ty.toNat = 2 ∨ f.ty.toNat = 5 ∨ f.ty.toNat = 6) :
    PredicateLands i s f (fun l => ((laneElems f.ty.toNat (s.core.rv f.va.toNat l)).zip (laneElems f.ty.toNat (s.core.rv f.vb.toNat l))).all
      fun e => r.onInt (asInt f.ty.toNat e.1) (asInt f.ty.toNat e.2)) false := by
  have hquiet : ((acting s.core f).any fun _ => false) = false := by simp
  simpa only [laneRel_int hty, hquiet] using predicateLands_of_vCompare hexec

/-- R107 on floats: the relation of the elements' values, and the union of their NV. -/
theorem predicateLands_of_vCompare_float {i : Instr} {s : State} {f : VForm} {r : VRel} (hexec : exec i s = vCompare f r s)
    (hty : f.ty.toNat = 0 ∨ f.ty.toNat = 3 ∨ f.ty.toNat = 4) :
    let es (l : Nat) := (laneElems f.ty.toNat (s.core.rv f.va.toNat l)).zip (laneElems f.ty.toNat (s.core.rv f.vb.toNat l))
    let rel (e : Nat × Nat) := r.onVal ((floatOf f.ty.toNat).decodeIeee e.1) ((floatOf f.ty.toNat).decodeIeee e.2)
    PredicateLands i s f (fun l => (es l).all fun e => (rel e).1) ((acting s.core f).any fun l => (es l).any fun e => (rel e).2) := by
  simpa only [laneRel_float hty] using predicateLands_of_vCompare hexec

/-! ## Selects (R108) -/

/-- R98, R100: a result computed lane by lane lands in its lanes with the union of their flags. -/
theorem lanesLand_of_laneResult {i : Instr} {s : State} {f : VForm} {lat : Nat} {lanes : Core → List Nat} {g : Core → Nat → W32 × Flags}
    (hexec : exec i s = laneResult f lat lanes g s) : LanesLand i s f lat (lanes s.core) (g s.core) := by
  rw [LanesLand, Queues, hexec, laneResult]
  simp only [List.map_map]
  rfl

/-- R108: VSEL picks lane by lane under the selector, in every lane of the enabled courses. -/
theorem lanesLand_vsel (f : VForm) (s : State) : LanesLand (.vsel f) s f 2 (inCourses f) fun l =>
    (if (s.core.rq f.qg.toNat).getLsbD l then s.core.rv f.va.toNat l else s.core.rv f.vb.toNat l, {}) := by
  simpa only [courseLanes_eq, bitOf_toNat] using lanesLand_of_laneResult (i := .vsel f) (s := s) rfl

/-- Settles O19: VSEL by its own lemma, the predicate logic and the compares by what a q result writes in the acting lanes. -/
theorem vectorSelectsPredicatesAndCompares : Obligations.VectorSelectsPredicatesAndCompares := by
  intro f s
  refine ⟨lanesLand_vsel f s, Core.wq_zero s.core, ?_, ?_, ?_, fun hty row hrow => ?_, fun hty row hrow => ?_⟩
  · exact predicateLands_of_qResult rfl fun l _ => BitVec.getLsbD_and
  · exact predicateLands_of_qResult rfl fun l _ => BitVec.getLsbD_or
  · exact predicateLands_of_qResult rfl fun l hl => by simp [hl]
  · simp only [List.mem_cons, List.not_mem_nil, or_false] at hrow
    rcases hrow with rfl | rfl | rfl | rfl | rfl | rfl
    · exact predicateLands_of_vCompare_int (r := .eq) rfl hty
    · exact predicateLands_of_vCompare_int (r := .ne) rfl hty
    · exact predicateLands_of_vCompare_int (r := .lt) rfl hty
    · exact predicateLands_of_vCompare_int (r := .le) rfl hty
    · exact predicateLands_of_vCompare_int (r := .gt) rfl hty
    · exact predicateLands_of_vCompare_int (r := .ge) rfl hty
  · simp only [List.mem_cons, List.not_mem_nil, or_false] at hrow
    rcases hrow with rfl | rfl | rfl | rfl | rfl | rfl
    · exact predicateLands_of_vCompare_float (r := .eq) rfl hty
    · exact predicateLands_of_vCompare_float (r := .ne) rfl hty
    · exact predicateLands_of_vCompare_float (r := .lt) rfl hty
    · exact predicateLands_of_vCompare_float (r := .le) rfl hty
    · exact predicateLands_of_vCompare_float (r := .gt) rfl hty
    · exact predicateLands_of_vCompare_float (r := .ge) rfl hty

end Sys2Proof
end
